-- ==== Sys2Proof/Word.lean ====
section
/-! DEFINITION. The 32-bit Word of the hardware and the widths of instruction fields (00_scope.md R9 to R12). -/

namespace Sys2Proof

/-- A Word: a 32-bit unsigned integer, the one data type of the hardware (R10). -/
abbrev Word := BitVec 32

/-- A register selector, 5 bits: a number 0 to 31 (R9, R21). -/
abbrev RegIx := BitVec 5

/-- The 16-bit immediate field of an instruction word (R91). -/
abbrev Imm16 := BitVec 16

/-- The 26-bit jump target field of an instruction word (R91). -/
abbrev Target26 := BitVec 26

/-- `mask32(v) = v mod 2^32` of a mathematical integer (R12). -/
def mask32 (v : Int) : Word := BitVec.ofInt 32 v

/-- `signed(v)`: the two's-complement reading of a Word (R12). -/
def signed (v : Word) : Int := v.toInt

end Sys2Proof
end

