-- ==== Sys2Proof/Syntax.lean ====
section
/-! DEFINITION. The 29 instructions of CORE-ISA v1, one constructor per row of spec/opcode_table.json (30_encoding.md R94),
with the operands in assembler order (R92, R105). -/

namespace Sys2Proof

/-- An instruction. Register operands are selectors, immediates are the raw 16-bit field, jump targets the raw 26-bit field;
the extension of an immediate belongs to the meaning (R93). The shift-immediate instructions carry the whole 16-bit field,
whose bits 15:5 must be zero (R92, format IH; log 12): `Instr.wf` checks it. -/
inductive Instr
  -- 40_nop_alu_register.md
  | nop
  | add (rd rs rt : RegIx)
  | sub (rd rs rt : RegIx)
  | and (rd rs rt : RegIx)
  | or (rd rs rt : RegIx)
  | xor (rd rs rt : RegIx)
  | slt (rd rs rt : RegIx)
  | sltu (rd rs rt : RegIx)
  | sll (rd rs rt : RegIx)
  | srl (rd rs rt : RegIx)
  | sra (rd rs rt : RegIx)
  -- 41_alu_immediate.md
  | addi (rt rs : RegIx) (imm : Imm16)
  | andi (rt rs : RegIx) (imm : Imm16)
  | ori (rt rs : RegIx) (imm : Imm16)
  | xori (rt rs : RegIx) (imm : Imm16)
  | slti (rt rs : RegIx) (imm : Imm16)
  | slli (rt rs : RegIx) (shamt : Imm16)
  | srli (rt rs : RegIx) (shamt : Imm16)
  | srai (rt rs : RegIx) (shamt : Imm16)
  | lui (rt : RegIx) (imm : Imm16)
  -- 42_load_store.md
  | load (rt rs : RegIx) (imm : Imm16)
  | store (rt rs : RegIx) (imm : Imm16)
  -- 43_control_transfer.md
  | beq (rs rt : RegIx) (imm : Imm16)
  | bne (rs rt : RegIx) (imm : Imm16)
  | blt (rs rt : RegIx) (imm : Imm16)
  | bge (rs rt : RegIx) (imm : Imm16)
  | j (target : Target26)
  | jal (target : Target26)
  | jr (rs : RegIx)
  deriving DecidableEq, Repr

end Sys2Proof
end

