-- ==== Sys2Proof/WellFormed.lean ====
section
/-! DEFINITION. Which instructions are well formed: those with an encoding (30_encoding.md R96). Every operand of the right width
is legal but for the shift amounts of format IH, whose bits 15:5 must be zero (R92). -/

namespace Sys2Proof

/-- Bits 15:5 of a shift-immediate field are zero (R92 format IH, R96): the amount is 0 to 31. -/
def shamtInRange (shamt : Imm16) : Bool := shamt.extractLsb' 5 11 == 0

/-- The instruction has an encoding. -/
def Instr.wf : Instr → Bool
  | .nop => true
  | .add _ _ _ => true
  | .sub _ _ _ => true
  | .and _ _ _ => true
  | .or _ _ _ => true
  | .xor _ _ _ => true
  | .slt _ _ _ => true
  | .sltu _ _ _ => true
  | .sll _ _ _ => true
  | .srl _ _ _ => true
  | .sra _ _ _ => true
  | .addi _ _ _ => true
  | .andi _ _ _ => true
  | .ori _ _ _ => true
  | .xori _ _ _ => true
  | .slti _ _ _ => true
  | .slli _ _ shamt => shamtInRange shamt
  | .srli _ _ shamt => shamtInRange shamt
  | .srai _ _ shamt => shamtInRange shamt
  | .lui _ _ => true
  | .load _ _ _ => true
  | .store _ _ _ => true
  | .beq _ _ _ => true
  | .bne _ _ _ => true
  | .blt _ _ _ => true
  | .bge _ _ _ => true
  | .j _ => true
  | .jal _ => true
  | .jr _ => true

end Sys2Proof
end

