-- ==== Sys2Proof/Decode.lean ====
section
/-! DEFINITION. The binary codec of 30_encoding.md: the fields of a word (R91), the decoder (R94, R96), `valid_word` as R96 writes
it out, the encoder (R92, R106 step 5), and the opcode map with its match and mask columns (R94). -/

namespace Sys2Proof

/-! Fields of an instruction word (R91). -/

def opcodeOf (w : Word) : BitVec 6 := w.extractLsb' 26 6
def rsOf (w : Word) : RegIx := w.extractLsb' 21 5
def rtOf (w : Word) : RegIx := w.extractLsb' 16 5
def rdOf (w : Word) : RegIx := w.extractLsb' 11 5
def immOf (w : Word) : Imm16 := w.extractLsb' 0 16
def targetOf (w : Word) : Target26 := w.extractLsb' 0 26

/-! One decoder per format that has a must-be-zero field (R96): the word is refused when the field is not zero. -/

/-- Format N: the all-zero word and no other (R141). -/
def decodeN (w : Word) (i : Instr) : Option Instr := if w = 0 then some i else none

/-- Format R: `w[10:0] = 0`. -/
def decodeR (w : Word) (mk : RegIx → RegIx → RegIx → Instr) : Option Instr :=
  if w.extractLsb' 0 11 = 0 then some (mk (rdOf w) (rsOf w) (rtOf w)) else none

/-- Formats IS, IU and M: no must-be-zero field; the register `rt` is the first operand. -/
def decodeI (w : Word) (mk : RegIx → RegIx → Imm16 → Instr) : Option Instr := some (mk (rtOf w) (rsOf w) (immOf w))

/-- Format IH: `w[15:5] = 0`. -/
def decodeIH (w : Word) (mk : RegIx → RegIx → Imm16 → Instr) : Option Instr :=
  if w.extractLsb' 5 11 = 0 then some (mk (rtOf w) (rsOf w) (immOf w)) else none

/-- Format L: `w[25:21] = 0`. -/
def decodeL (w : Word) (mk : RegIx → Imm16 → Instr) : Option Instr :=
  if w.extractLsb' 21 5 = 0 then some (mk (rtOf w) (immOf w)) else none

/-- Format B: no must-be-zero field; the register `rs` is the first operand. -/
def decodeB (w : Word) (mk : RegIx → RegIx → Imm16 → Instr) : Option Instr := some (mk (rsOf w) (rtOf w) (immOf w))

/-- Format J. -/
def decodeJ (w : Word) (mk : Target26 → Instr) : Option Instr := some (mk (targetOf w))

/-- Format JR: `w[20:0] = 0`. -/
def decodeJR (w : Word) (mk : RegIx → Instr) : Option Instr :=
  if w.extractLsb' 0 21 = 0 then some (mk (rsOf w)) else none

/-- The instruction a word encodes; `none` for a reserved word (R94, R96, R97). -/
def decodeWord (w : Word) : Option Instr :=
  match (opcodeOf w).toNat with
  | 0x00 => decodeN w .nop
  | 0x01 => decodeR w .add
  | 0x02 => decodeR w .sub
  | 0x03 => decodeR w .and
  | 0x04 => decodeR w .or
  | 0x05 => decodeR w .xor
  | 0x06 => decodeR w .slt
  | 0x07 => decodeR w .sltu
  | 0x08 => decodeR w .sll
  | 0x09 => decodeR w .srl
  | 0x0A => decodeR w .sra
  | 0x10 => decodeI w .addi
  | 0x11 => decodeI w .andi
  | 0x12 => decodeI w .ori
  | 0x13 => decodeI w .xori
  | 0x14 => decodeI w .slti
  | 0x15 => decodeIH w .slli
  | 0x16 => decodeIH w .srli
  | 0x17 => decodeIH w .srai
  | 0x18 => decodeL w .lui
  | 0x20 => decodeI w .load
  | 0x21 => decodeI w .store
  | 0x30 => decodeB w .beq
  | 0x31 => decodeB w .bne
  | 0x32 => decodeB w .blt
  | 0x33 => decodeB w .bge
  | 0x38 => decodeJ w .j
  | 0x39 => decodeJ w .jal
  | 0x3A => decodeJR w .jr
  | _ => none

/-- `valid_word(w)`, in the form R96 writes it out. -/
def validWord (w : Word) : Bool :=
  let op := (opcodeOf w).toNat
  if op = 0x00 then w == 0
  else if 0x01 ≤ op ∧ op ≤ 0x0A then w.extractLsb' 0 11 == 0
  else if op ∈ [0x10, 0x11, 0x12, 0x13, 0x14] then true
  else if op ∈ [0x15, 0x16, 0x17] then w.extractLsb' 5 11 == 0
  else if op = 0x18 then w.extractLsb' 21 5 == 0
  else if op ∈ [0x20, 0x21] then true
  else if op ∈ [0x30, 0x31, 0x32, 0x33] then true
  else if op ∈ [0x38, 0x39] then true
  else if op = 0x3A then w.extractLsb' 0 21 == 0
  else false

/-- The decoder as the host's opcode table numbers bits: an instruction is one 32-bit Word (R90), so the table's bit `k` is bit
`k` of the word; there is no byte order (20_memory.md R64). Bits above `nbits` are zero; a number that needs more than `nbits`
bits, or more than a Word, is no instruction. -/
def decodeTableWord (nbits w : Nat) : Option Instr :=
  if nbits ≤ 32 ∧ w < 2 ^ nbits then decodeWord (BitVec.ofNat 32 w) else none

/-! The encoder (R92, R106 step 5): the operands in their fields and every other bit zero. -/

def encodeR (op : BitVec 6) (rd rs rt : RegIx) : Word := op ++ rs ++ rt ++ rd ++ (0 : BitVec 11)
def encodeI (op : BitVec 6) (rs rt : RegIx) (imm : Imm16) : Word := op ++ rs ++ rt ++ imm
def encodeJ (op : BitVec 6) (target : Target26) : Word := op ++ target
def encodeJR (op : BitVec 6) (rs : RegIx) : Word := op ++ rs ++ (0 : BitVec 21)

/-- The word of an instruction. For an instruction that is not well formed it is a reserved word. -/
def encode : Instr → Word
  | .nop => 0
  | .add rd rs rt => encodeR 0x01 rd rs rt
  | .sub rd rs rt => encodeR 0x02 rd rs rt
  | .and rd rs rt => encodeR 0x03 rd rs rt
  | .or rd rs rt => encodeR 0x04 rd rs rt
  | .xor rd rs rt => encodeR 0x05 rd rs rt
  | .slt rd rs rt => encodeR 0x06 rd rs rt
  | .sltu rd rs rt => encodeR 0x07 rd rs rt
  | .sll rd rs rt => encodeR 0x08 rd rs rt
  | .srl rd rs rt => encodeR 0x09 rd rs rt
  | .sra rd rs rt => encodeR 0x0A rd rs rt
  | .addi rt rs imm => encodeI 0x10 rs rt imm
  | .andi rt rs imm => encodeI 0x11 rs rt imm
  | .ori rt rs imm => encodeI 0x12 rs rt imm
  | .xori rt rs imm => encodeI 0x13 rs rt imm
  | .slti rt rs imm => encodeI 0x14 rs rt imm
  | .slli rt rs shamt => encodeI 0x15 rs rt shamt
  | .srli rt rs shamt => encodeI 0x16 rs rt shamt
  | .srai rt rs shamt => encodeI 0x17 rs rt shamt
  | .lui rt imm => encodeI 0x18 0 rt imm
  | .load rt rs imm => encodeI 0x20 rs rt imm
  | .store rt rs imm => encodeI 0x21 rs rt imm
  | .beq rs rt imm => encodeI 0x30 rs rt imm
  | .bne rs rt imm => encodeI 0x31 rs rt imm
  | .blt rs rt imm => encodeI 0x32 rs rt imm
  | .bge rs rt imm => encodeI 0x33 rs rt imm
  | .j target => encodeJ 0x38 target
  | .jal target => encodeJ 0x39 target
  | .jr rs => encodeJR 0x3A rs

/-! The opcode map (R94), row for row. -/

/-- A row of R94: a word `w` is the instruction exactly when `w AND mask = pattern` (the spec's column is called match). -/
structure OpRow where
  mnemonic : String
  pattern  : Word
  mask     : Word
  deriving DecidableEq, Repr

/-- The rows of R94 for NOP and the register ALU. -/
def registerRows : List OpRow := [
  ⟨"NOP",  0x00000000, 0xFFFFFFFF⟩,
  ⟨"ADD",  0x04000000, 0xFC0007FF⟩,
  ⟨"SUB",  0x08000000, 0xFC0007FF⟩,
  ⟨"AND",  0x0C000000, 0xFC0007FF⟩,
  ⟨"OR",   0x10000000, 0xFC0007FF⟩,
  ⟨"XOR",  0x14000000, 0xFC0007FF⟩,
  ⟨"SLT",  0x18000000, 0xFC0007FF⟩,
  ⟨"SLTU", 0x1C000000, 0xFC0007FF⟩,
  ⟨"SLL",  0x20000000, 0xFC0007FF⟩,
  ⟨"SRL",  0x24000000, 0xFC0007FF⟩,
  ⟨"SRA",  0x28000000, 0xFC0007FF⟩]

/-- The rows of R94 for the immediate ALU. -/
def immediateRows : List OpRow := [
  ⟨"ADDI", 0x40000000, 0xFC000000⟩,
  ⟨"ANDI", 0x44000000, 0xFC000000⟩,
  ⟨"ORI",  0x48000000, 0xFC000000⟩,
  ⟨"XORI", 0x4C000000, 0xFC000000⟩,
  ⟨"SLTI", 0x50000000, 0xFC000000⟩,
  ⟨"SLLI", 0x54000000, 0xFC00FFE0⟩,
  ⟨"SRLI", 0x58000000, 0xFC00FFE0⟩,
  ⟨"SRAI", 0x5C000000, 0xFC00FFE0⟩,
  ⟨"LUI",  0x60000000, 0xFFE00000⟩]

/-- The rows of R94 for memory and control transfer. -/
def memoryAndTransferRows : List OpRow := [
  ⟨"LOAD",  0x80000000, 0xFC000000⟩,
  ⟨"STORE", 0x84000000, 0xFC000000⟩,
  ⟨"BEQ",   0xC0000000, 0xFC000000⟩,
  ⟨"BNE",   0xC4000000, 0xFC000000⟩,
  ⟨"BLT",   0xC8000000, 0xFC000000⟩,
  ⟨"BGE",   0xCC000000, 0xFC000000⟩,
  ⟨"J",     0xE0000000, 0xFC000000⟩,
  ⟨"JAL",   0xE4000000, 0xFC000000⟩,
  ⟨"JR",    0xE8000000, 0xFC1FFFFF⟩]

/-- The opcode map of R94. -/
def opcodeTable : List OpRow := registerRows ++ immediateRows ++ memoryAndTransferRows

/-- The word is the row's instruction (R94). -/
def OpRow.matchesWord (r : OpRow) (w : Word) : Bool := w &&& r.mask == r.pattern

/-- The mnemonic of an instruction (R94). -/
def Instr.mnemonic : Instr → String
  | .nop => "NOP"
  | .add _ _ _ => "ADD"
  | .sub _ _ _ => "SUB"
  | .and _ _ _ => "AND"
  | .or _ _ _ => "OR"
  | .xor _ _ _ => "XOR"
  | .slt _ _ _ => "SLT"
  | .sltu _ _ _ => "SLTU"
  | .sll _ _ _ => "SLL"
  | .srl _ _ _ => "SRL"
  | .sra _ _ _ => "SRA"
  | .addi _ _ _ => "ADDI"
  | .andi _ _ _ => "ANDI"
  | .ori _ _ _ => "ORI"
  | .xori _ _ _ => "XORI"
  | .slti _ _ _ => "SLTI"
  | .slli _ _ _ => "SLLI"
  | .srli _ _ _ => "SRLI"
  | .srai _ _ _ => "SRAI"
  | .lui _ _ => "LUI"
  | .load _ _ _ => "LOAD"
  | .store _ _ _ => "STORE"
  | .beq _ _ _ => "BEQ"
  | .bne _ _ _ => "BNE"
  | .blt _ _ _ => "BLT"
  | .bge _ _ _ => "BGE"
  | .j _ => "J"
  | .jal _ => "JAL"
  | .jr _ => "JR"

end Sys2Proof
end

