-- ==== Sys2Proof/Config.lean ====
section
/-! DEFINITION. The parameters of the hardware (00_scope.md R9): those the spec fixes, and the defaults of the ones it leaves
open as arguments of the launch. There is no free value: the spec calls nothing undefined. -/

namespace Sys2Proof.Config

/-- `RESET_PC` (R9, R41): execution starts at instruction index 0. -/
def resetPc : Word := 0

/-- `ZERO_REG` (R9, R22). -/
def zeroReg : RegIx := 0

/-- `LINK_REG` (R9, R196): the register JAL writes. -/
def linkReg : RegIx := 31

/-- The greatest legal `IMEM_LEN` (R9, R30), 2^32 - 1: the index after the last word is a Word. -/
def maxImemLen : Nat := 4294967295

/-- DESIGN CHOICE (log 3, unsafe): `DMEM_WORDS` of `State.reset` is `2 ^ 8 = 256`, the size the spec's test vectors use; the
spec gives no default. Any other size is a launch argument. -/
def defaultDmemSizeLog2 : Fin 33 := 8

/-- The value a data-memory cell that the memory lists nothing for holds: the default of `DMEM_INIT` (R9, R41; log 5). -/
def unlistedCell : Word := 0

/-- The default of `REG_INIT` (R9, R41; log 5). -/
def defaultRegInit : Vector Word 32 := Vector.replicate 32 0

end Sys2Proof.Config
end

