-- ==== Sys2Proof/Machine/State.lean ====
section
/-! DEFINITION. The state of the hardware, complete and nothing else (10_state.md R20): registers, program counter, the two
memories, the four pipeline latches and the driver's records, with their reset values (R41); and the reasons a step can stop. -/

namespace Sys2Proof.Machine

/-! Control signals (R34, 44_pipeline_stages.md R213). -/

/-- The thirteen values of `alu_op` (R34, R218). -/
inductive AluOp
  | ADD | SUB | AND | OR | XOR | SLT | SLTU | SLL | SRL | SRA | LUI | LINK | NONE
  deriving DecidableEq, Repr

/-- The seven values of `ctl`, the kind of control transfer (R34, R219). -/
inductive CtlKind
  | NONE | BEQ | BNE | BLT | BGE | J | JR
  deriving DecidableEq, Repr

/-- The control signals ID derives from the opcode (R34, R213). -/
structure Control where
  readsRs  : Bool
  readsRt  : Bool
  regWrite : Bool
  memRead  : Bool
  memWrite : Bool
  aluBImm  : Bool
  aluOp    : AluOp
  ctl      : CtlKind
  deriving DecidableEq, Repr

/-! Pipeline latches (R32 to R36). -/

/-- A latch is tagged `Empty` or `Occupied` (R32): a bubble is `empty`, and no instruction word means "idle". -/
inductive Latch (α : Type)
  | empty
  | occupied (v : α)
  deriving DecidableEq, Repr

/-- The contents of `IF_ID`: the index a word was fetched from, and the word (R33). -/
structure IfId where
  pc    : Word
  instr : Word
  deriving DecidableEq, Repr

/-- The contents of `ID_EX` (R34): program counter, decoded fields, control signals, computed values. -/
structure IdEx where
  pc      : Word
  instr   : Word
  rs      : RegIx
  rt      : RegIx
  dest    : RegIx
  imm     : Word
  jtarget : Word
  sig     : Control
  a       : Word
  b       : Word
  deriving DecidableEq, Repr

/-- The contents of `EX_MEM` (R35). -/
structure ExMem where
  pc        : Word
  instr     : Word
  dest      : RegIx
  regWrite  : Bool
  memRead   : Bool
  memWrite  : Bool
  aluResult : Word
  storeData : Word
  deriving DecidableEq, Repr

/-- The contents of `MEM_WB` (R36). -/
structure MemWb where
  pc       : Word
  instr    : Word
  dest     : RegIx
  regWrite : Bool
  result   : Word
  deriving DecidableEq, Repr

/-! Driver records (R39). -/

/-- One stage's activity in one tick (R39): the sentinel for "no instruction" is `none`. -/
structure ActivityRecord where
  pc      : Option Word
  instr   : Word
  genuine : Bool
  deriving DecidableEq, Repr

/-- The five activity records of one tick (R39). -/
structure TickRecord where
  atIF  : ActivityRecord
  atID  : ActivityRecord
  atEX  : ActivityRecord
  atMEM : ActivityRecord
  atWB  : ActivityRecord
  deriving DecidableEq, Repr

/-! Memories and registers (R21, R30, R31). -/

/-- The register file: 32 Words (R21). -/
abbrev RegFile := Vector Word 32

/-- A cell of data memory: its index and its Word. Cells are whole Words, never bytes (20_memory.md R63, R64; log 4). -/
abbrev MemCell := Nat × Word

/-- Data memory (R31): `DMEM_WORDS = 2 ^ sizeLog2` cells, a power of two from 1 to 2^32 (R9). `cells` lists, by rising index,
the cells that differ from `Config.unlistedCell`. -/
structure Memory where
  sizeLog2 : Fin 33
  cells    : List MemCell
  deriving DecidableEq, Repr

/-- The state of the hardware (R20). `imem` is read-only: no operation but loading changes it (R30, R73), and `IMEM_LEN` is its
length. -/
structure State where
  x       : RegFile
  pc      : Word
  dmem    : Memory
  imem    : List Word
  ifId    : Latch IfId
  idEx    : Latch IdEx
  exMem   : Latch ExMem
  memWb   : Latch MemWb
  history : List TickRecord
  cycles  : Nat
  deriving DecidableEq, Repr

/-- Why the machine stops. -/
inductive Fault
  /-- The one model-level fault (60_exceptions.md R323): the word `word` fetched at index `pc` is no valid encoding. Raised by ID
  in `tick` and by `step` when it reaches the word. Safe: the spec gives the run no state beyond this point. -/
  | reservedInstruction (pc word : Word)
  deriving DecidableEq, Repr

/-- Why an instruction has no meaning. -/
inductive Refusal
  /-- An instruction the model has no meaning for yet, by its mnemonic; raised by `exec` only. Safe. No arm uses it. -/
  | notModelled (mnemonic : String)
  deriving DecidableEq, Repr

/-- The machine right after reset (R41, R350) with the default launch parameters (R9, log 3, log 5): no program loaded yet
(R298, log 6), latches empty, `pc` 0, registers and data memory zero, no tick run. -/
def State.reset : State where
  x       := Config.defaultRegInit
  pc      := Config.resetPc
  dmem    := { sizeLog2 := Config.defaultDmemSizeLog2, cells := [] }
  imem    := []
  ifId    := .empty
  idEx    := .empty
  exMem   := .empty
  memWb   := .empty
  history := []
  cycles  := 0

end Sys2Proof.Machine
end

