-- ==== Sys2Proof/Machine/Flags.lean ====
section
/-! DEFINITION. The hardware has no flags and no condition codes (10_state.md R26): no instruction computes one. What stands in
their place are the comparisons of two Words that branches and the SLT family make, on exact values (40_nop_alu_register.md R152 d). -/

namespace Sys2Proof.Machine

/-- `signed(a) < signed(b)` (R147, R193). -/
def lessSigned (a b : Word) : Bool := decide (signed a < signed b)

/-- `a < b` as unsigned integers (R148). -/
def lessUnsigned (a b : Word) : Bool := decide (a.toNat < b.toNat)

/-- The Word 1 or the Word 0 (R147). -/
def boolWord (c : Bool) : Word := if c then 1 else 0

/-- Whether a control transfer of kind `ctl` is taken on the operands `a`, `b` (R219): branches by their condition (R191 to
R194), J (also JAL) and JR always. -/
def transferTaken (ctl : CtlKind) (a b : Word) : Bool :=
  match ctl with
  | .NONE => false
  | .BEQ => a == b
  | .BNE => a != b
  | .BLT => lessSigned a b
  | .BGE => !lessSigned a b
  | .J => true
  | .JR => true

end Sys2Proof.Machine
end

