-- ==== Sys2Proof/Machine/Operands.lean ====
section
/-! DEFINITION. How operands are formed: extension of immediates (00_scope.md R13, 30_encoding.md R93), shift amounts, the one
addressing mode (42_load_store.md R180) and the targets of control transfers (43_control_transfer.md R190, R195). -/

namespace Sys2Proof.Machine

/-- `sext_32` of a 16-bit field (R13). -/
def sext32 (v : Imm16) : Word := v.signExtend 32

/-- `zext_32` of a 16-bit field (R13). -/
def zext32 (v : Imm16) : Word := v.setWidth 32

/-- `zext_32` of the 26-bit jump target: an absolute instruction index (R93, R195). -/
def jumpTarget (target : Target26) : Word := target.setWidth 32

/-- The shift amount `b[4:0]`, 0 to 31 (R149, R152 e). -/
def shiftAmount (b : Word) : Nat := (b.extractLsb' 0 5).toNat

/-- `ea = mask32(base + sext_32(imm16))`, a data address that counts words (R180). -/
def effectiveAddress (base : Word) (imm : Imm16) : Word := base + sext32 imm

/-- `mask32(pc + sext_32(imm16))`, where `pc` is the index of the branch itself (R190 b). -/
def branchTarget (pc : Word) (imm : Imm16) : Word := pc + sext32 imm

/-- `mask32(pc + 1)`: the index of the next instruction, and the link value of JAL (R24, R196). -/
def nextIndex (pc : Word) : Word := pc + 1

end Sys2Proof.Machine
end

