-- ==== Sys2Proof/Machine/Alu.lean ====
section
/-! DEFINITION. The ALU (44_pipeline_stages.md R218): total, combinational, raising nothing. -/

namespace Sys2Proof.Machine

/-- `ALU(alu_op, a, b, pc)` (R218). Addition, subtraction and shifts are modulo 2^32 (R152); NONE gives 0. -/
def alu (op : AluOp) (a b pc : Word) : Word :=
  match op with
  | .ADD => a + b
  | .SUB => a - b
  | .AND => a &&& b
  | .OR => a ||| b
  | .XOR => a ^^^ b
  | .SLT => boolWord (lessSigned a b)
  | .SLTU => boolWord (lessUnsigned a b)
  | .SLL => a <<< shiftAmount b
  | .SRL => a >>> shiftAmount b
  | .SRA => a.sshiftRight (shiftAmount b)
  | .LUI => b <<< 16
  | .LINK => nextIndex pc
  | .NONE => 0

end Sys2Proof.Machine
end

