-- ==== Sys2Proof/Machine/Ops.lean ====
section
/-! DEFINITION. The named operations over registers, data memory, the program counter and instruction memory, the launch, and the
one way the machine stops. The hardware has no exceptions: nothing is entered and nothing is returned from (60_exceptions.md
R320, R327, R328). -/

namespace Sys2Proof.Machine

/-! Registers (10_state.md R22, R23). -/

/-- A read of register `r`: register 0 reads 0 (R22). -/
def RegFile.read (x : RegFile) (r : RegIx) : Word := if r = Config.zeroReg then 0 else x[r.toNat]'r.isLt

/-- A write of register `r`: a write to register 0 is accepted and has no effect (R22). -/
def RegFile.write (x : RegFile) (r : RegIx) (v : Word) : RegFile :=
  if r = Config.zeroReg then x else x.set r.toNat v r.isLt

/-- `x[r]` (00_scope.md R14). -/
def State.readReg (s : State) (r : RegIx) : Word := RegFile.read s.x r

/-- `x[r] <- v` (R14). -/
def State.writeReg (s : State) (r : RegIx) (v : Word) : State := { s with x := RegFile.write s.x r v }

/-! Data memory (20_memory.md R61, R62). -/

/-- `DMEM_WORDS`. -/
def Memory.words (m : Memory) : Nat := 2 ^ m.sizeLog2.val

/-- The cell a data address selects: `addr mod DMEM_WORDS` (R61). -/
def Memory.cellOf (m : Memory) (addr : Word) : Nat := addr.toNat % m.words

/-- The Word of cell `k` in a list of cells; a cell that is not listed holds `Config.unlistedCell`. -/
def cellRead (k : Nat) : List MemCell → Word
  | [] => Config.unlistedCell
  | (k', v) :: rest => if k = k' then v else cellRead k rest

/-- A cell put in front of `rest`, unless it holds what an unlisted cell holds. -/
def cellCons (k : Nat) (v : Word) (rest : List MemCell) : List MemCell :=
  if v = Config.unlistedCell then rest else (k, v) :: rest

/-- The list of cells after cell `k` takes the value `v`, in the canonical form. -/
def cellWrite (k : Nat) (v : Word) : List MemCell → List MemCell
  | [] => cellCons k v []
  | (k', v') :: rest =>
    if k < k' then cellCons k v ((k', v') :: rest)
    else if k = k' then cellCons k v rest
    else (k', v') :: cellWrite k v rest

/-- The Word of cell `k`. -/
def Memory.readCell (m : Memory) (k : Nat) : Word := cellRead k m.cells

/-- Data memory after cell `k` takes the value `v`. -/
def Memory.writeCell (m : Memory) (k : Nat) (v : Word) : Memory := { m with cells := cellWrite k v m.cells }

/-- `MemRead(addr, 1)` (R62). -/
def Memory.read (m : Memory) (addr : Word) : Word := m.readCell (m.cellOf addr)

/-- `MemWrite(addr, 1, v)` (R62). -/
def Memory.write (m : Memory) (addr v : Word) : Memory := m.writeCell (m.cellOf addr) v

/-- The canonical form: indices strictly rising and inside the memory, and no entry equal to what an unlisted cell holds. -/
abbrev Memory.wf (m : Memory) : Prop :=
  m.cells.Pairwise (fun c d => c.1 < d.1) ∧ ∀ c ∈ m.cells, c.1 < m.words ∧ c.2 ≠ Config.unlistedCell

/-- `MemRead` on the machine's data memory. -/
def State.memRead (s : State) (addr : Word) : Word := s.dmem.read addr

/-- `MemWrite` on the machine's data memory. -/
def State.memWrite (s : State) (addr v : Word) : State := { s with dmem := s.dmem.write addr v }

/-! Program counter and instruction memory (R24, R66). -/

/-- `pc <- t`. -/
def State.setPc (s : State) (t : Word) : State := { s with pc := t }

/-- `pc <- pc + 1`, implied by every instruction rule that does not assign the pc (R14). -/
def State.advance (s : State) : State := s.setPc (nextIndex s.pc)

/-- `IMEM_LEN`. -/
def State.imemLen (s : State) : Nat := s.imem.length

/-- The word at index `pc`; `none` when `pc >= IMEM_LEN`: nothing is fetched (R66). -/
def State.fetch (s : State) : Option Word := s.imem[s.pc.toNat]?

/-- Instruction memory with `w` at index `i`; slots that this creates below `i` hold the word 0, which is NOP. -/
def placeWord (imem : List Word) (i : Nat) (w : Word) : List Word :=
  if i < imem.length then imem.set i w else imem ++ List.replicate (i - imem.length) 0 ++ [w]

/-- `s` with the word `w` where `step` fetches its next instruction: `IMEM[pc]` (log 6). -/
def State.placeFetchWord (s : State) (w : Word) : State := { s with imem := placeWord s.imem s.pc.toNat w }

/-! Launch (70_reset_and_hazards.md R350). -/

/-- The list of cells of `DMEM_INIT`, given as the Words of the cells from index `k` on, up to `n` cells. -/
def initCells : Nat → Nat → List Word → List MemCell
  | 0, _, _ => []
  | _ + 1, _, [] => []
  | n + 1, k, v :: rest => cellCons k v (initCells n (k + 1) rest)

/-- Data memory of `DMEM_WORDS = 2 ^ sizeLog2` cells that holds `DMEM_INIT`; cells past the end of the list hold its default. -/
def Memory.init (sizeLog2 : Fin 33) (dmemInit : List Word) : Memory where
  sizeLog2 := sizeLog2
  cells    := initCells (2 ^ sizeLog2.val) 0 dmemInit

/-- Reset with the launch parameters `IMEM`, `DMEM_WORDS`, `REG_INIT`, `DMEM_INIT` (R350, R41). Slot 0 of the register file is 0
whatever `REG_INIT[0]` is (R22). -/
def State.launch (imem : List Word) (sizeLog2 : Fin 33) (regInit : RegFile) (dmemInit : List Word) : State :=
  { State.reset with x := regInit.set 0 0, dmem := Memory.init sizeLog2 dmemInit, imem := imem }

/-! The one stop. -/

/-- `fault ReservedInstruction(pc, word)` (R323): no state is saved and nothing resumes. -/
def reservedInstruction (pc word : Word) : Host.Outcome State Fault Refusal := .fault (.reservedInstruction pc word)

end Sys2Proof.Machine
end

