-- ==== Sys2Proof/Machine/AluImmediate.lean ====
section
/-! DEFINITION. The register-immediate ALU instructions and LUI (41_alu_immediate.md). -/

namespace Sys2Proof.Machine

/-- The common effect of formats IS, IU and IH (R160): `x[rt] <- f(x[rs], E(imm16))`, the source read first, then `pc <- pc + 1`.
`b` is the extended immediate. -/
def State.aluImmediate (s : State) (op : AluOp) (rt rs : RegIx) (b : Word) : State :=
  (s.writeReg rt (alu op (s.readReg rs) b s.pc)).advance

/-- ADDI (R161): the immediate is sign-extended. -/
def execAddi (rt rs : RegIx) (imm : Imm16) (s : State) : Host.Outcome State Fault Refusal :=
  .next (s.aluImmediate .ADD rt rs (sext32 imm))

/-- ANDI (R162): the immediate is zero-extended. -/
def execAndi (rt rs : RegIx) (imm : Imm16) (s : State) : Host.Outcome State Fault Refusal :=
  .next (s.aluImmediate .AND rt rs (zext32 imm))

/-- ORI (R163): the immediate is zero-extended. -/
def execOri (rt rs : RegIx) (imm : Imm16) (s : State) : Host.Outcome State Fault Refusal :=
  .next (s.aluImmediate .OR rt rs (zext32 imm))

/-- XORI (R164): the immediate is zero-extended. -/
def execXori (rt rs : RegIx) (imm : Imm16) (s : State) : Host.Outcome State Fault Refusal :=
  .next (s.aluImmediate .XOR rt rs (zext32 imm))

/-- SLTI (R165): the immediate is sign-extended and the comparison is signed. -/
def execSlti (rt rs : RegIx) (imm : Imm16) (s : State) : Host.Outcome State Fault Refusal :=
  .next (s.aluImmediate .SLT rt rs (sext32 imm))

/-- SLLI (R166): the ALU uses bits 4:0 of the zero-extended field. -/
def execSlli (rt rs : RegIx) (shamt : Imm16) (s : State) : Host.Outcome State Fault Refusal :=
  .next (s.aluImmediate .SLL rt rs (zext32 shamt))

/-- SRLI (R167). -/
def execSrli (rt rs : RegIx) (shamt : Imm16) (s : State) : Host.Outcome State Fault Refusal :=
  .next (s.aluImmediate .SRL rt rs (zext32 shamt))

/-- SRAI (R168). -/
def execSrai (rt rs : RegIx) (shamt : Imm16) (s : State) : Host.Outcome State Fault Refusal :=
  .next (s.aluImmediate .SRA rt rs (zext32 shamt))

/-- LUI (R169): `x[rt] <- imm16 ++ 0x0000`; no register is read, the ALU ignores its input A. -/
def execLui (rt : RegIx) (imm : Imm16) (s : State) : Host.Outcome State Fault Refusal :=
  .next (s.writeReg rt (alu .LUI 0 (zext32 imm) s.pc)).advance

end Sys2Proof.Machine
end

