-- ==== Sys2Proof/Machine/AluRegister.lean ====
section
/-! DEFINITION. NOP and the register-register ALU instructions (40_nop_alu_register.md). -/

namespace Sys2Proof.Machine

/-- The common effect of format R (R140): `x[rd] <- f(x[rs], x[rt])`, both sources read first, then `pc <- pc + 1`. -/
def State.aluRegister (s : State) (op : AluOp) (rd rs rt : RegIx) : State :=
  (s.writeReg rd (alu op (s.readReg rs) (s.readReg rt) s.pc)).advance

/-- NOP (R141). -/
def execNop (s : State) : Host.Outcome State Fault Refusal := .next s.advance

/-- ADD (R142). -/
def execAdd (rd rs rt : RegIx) (s : State) : Host.Outcome State Fault Refusal := .next (s.aluRegister .ADD rd rs rt)

/-- SUB (R143). -/
def execSub (rd rs rt : RegIx) (s : State) : Host.Outcome State Fault Refusal := .next (s.aluRegister .SUB rd rs rt)

/-- AND (R144). -/
def execAnd (rd rs rt : RegIx) (s : State) : Host.Outcome State Fault Refusal := .next (s.aluRegister .AND rd rs rt)

/-- OR (R145). -/
def execOr (rd rs rt : RegIx) (s : State) : Host.Outcome State Fault Refusal := .next (s.aluRegister .OR rd rs rt)

/-- XOR (R146). -/
def execXor (rd rs rt : RegIx) (s : State) : Host.Outcome State Fault Refusal := .next (s.aluRegister .XOR rd rs rt)

/-- SLT (R147). -/
def execSlt (rd rs rt : RegIx) (s : State) : Host.Outcome State Fault Refusal := .next (s.aluRegister .SLT rd rs rt)

/-- SLTU (R148). -/
def execSltu (rd rs rt : RegIx) (s : State) : Host.Outcome State Fault Refusal := .next (s.aluRegister .SLTU rd rs rt)

/-- SLL (R149). -/
def execSll (rd rs rt : RegIx) (s : State) : Host.Outcome State Fault Refusal := .next (s.aluRegister .SLL rd rs rt)

/-- SRL (R150). -/
def execSrl (rd rs rt : RegIx) (s : State) : Host.Outcome State Fault Refusal := .next (s.aluRegister .SRL rd rs rt)

/-- SRA (R151). -/
def execSra (rd rs rt : RegIx) (s : State) : Host.Outcome State Fault Refusal := .next (s.aluRegister .SRA rd rs rt)

end Sys2Proof.Machine
end

