-- ==== Sys2Proof/Machine/ControlTransfer.lean ====
section
/-! DEFINITION. Branches and jumps (43_control_transfer.md). There is no delay slot (R190 c). -/

namespace Sys2Proof.Machine

/-- The common effect of the conditional branches (R190, R191 to R194): the branch target when the condition holds, the next
index otherwise. -/
def State.branch (s : State) (ctl : CtlKind) (rs rt : RegIx) (imm : Imm16) : State :=
  if transferTaken ctl (s.readReg rs) (s.readReg rt) then s.setPc (branchTarget s.pc imm) else s.advance

/-- BEQ (R191). -/
def execBeq (rs rt : RegIx) (imm : Imm16) (s : State) : Host.Outcome State Fault Refusal := .next (s.branch .BEQ rs rt imm)

/-- BNE (R192). -/
def execBne (rs rt : RegIx) (imm : Imm16) (s : State) : Host.Outcome State Fault Refusal := .next (s.branch .BNE rs rt imm)

/-- BLT (R193): signed. -/
def execBlt (rs rt : RegIx) (imm : Imm16) (s : State) : Host.Outcome State Fault Refusal := .next (s.branch .BLT rs rt imm)

/-- BGE (R194): signed. -/
def execBge (rs rt : RegIx) (imm : Imm16) (s : State) : Host.Outcome State Fault Refusal := .next (s.branch .BGE rs rt imm)

/-- J (R195): no bits of the old pc are kept. -/
def execJ (target : Target26) (s : State) : Host.Outcome State Fault Refusal := .next (s.setPc (jumpTarget target))

/-- JAL (R196): `x[31] <- pc + 1`, the index after the JAL; then the jump. -/
def execJal (target : Target26) (s : State) : Host.Outcome State Fault Refusal :=
  .next ((s.writeReg Config.linkReg (nextIndex s.pc)).setPc (jumpTarget target))

/-- JR (R197): all 32 bits of the register are the new pc. -/
def execJr (rs : RegIx) (s : State) : Host.Outcome State Fault Refusal := .next (s.setPc (s.readReg rs))

end Sys2Proof.Machine
end

