-- ==== Sys2Proof/Machine/LoadStore.lean ====
section
/-! DEFINITION. LOAD and STORE (42_load_store.md). -/

namespace Sys2Proof.Machine

/-- The address LOAD and STORE access (R180): base register plus sign-extended offset. -/
def State.dataAddress (s : State) (rs : RegIx) (imm : Imm16) : Word := effectiveAddress (s.readReg rs) imm

/-- LOAD (R181): the base is read before the destination is written. -/
def execLoad (rt rs : RegIx) (imm : Imm16) (s : State) : Host.Outcome State Fault Refusal :=
  .next (s.writeReg rt (s.memRead (s.dataAddress rs imm))).advance

/-- STORE (R182): no register is written. -/
def execStore (rt rs : RegIx) (imm : Imm16) (s : State) : Host.Outcome State Fault Refusal :=
  .next (s.memWrite (s.dataAddress rs imm) (s.readReg rt)).advance

end Sys2Proof.Machine
end

