-- ==== Sys2Proof/Machine/Step.lean ====
section
/-! DEFINITION. One step of the machine at the sequential level: execute the instruction at `IMEM[pc]` (46_clock_driver.md R303;
log 1). The cycle level, one tick of the pipeline, is `tick` in Machine/Tick.lean. -/

namespace Sys2Proof.Machine

/-- One instruction (R303): fetch `IMEM[pc]`, decode, execute. At `pc >= IMEM_LEN` nothing is fetched and the pc is held (R25 case
4, R66; log 2). A reserved word is the fault of R323 (log 7). -/
def step (s : State) : Host.Outcome State Fault Refusal :=
  match s.fetch with
  | none => .next s
  | some w =>
    match decodeWord w with
    | none => reservedInstruction s.pc w
    | some i => exec i s

/-- `s` with the instruction whose bits are `w` at `IMEM[pc]`, where `step` fetches (log 6). An instruction is one Word (R90), so
bits above `nbits` are zero. -/
def State.withFetchWord (s : State) (nbits w : Nat) : State := s.placeFetchWord (BitVec.ofNat 32 (w % 2 ^ nbits))

end Sys2Proof.Machine
end

