-- ==== Sys2Proof/Machine/Disassembler.lean ====
section
/-! DEFINITION. `decode(word)`, the display text of a word (30_encoding.md R109). It never fails and no rule of the hardware depends
on it (00_scope.md R5). -/

namespace Sys2Proof.Machine

/-- A natural number in decimal, without leading zeros. -/
def renderNat (n : Nat) : List Char := Nat.toDigits 10 n

/-- A signed number in decimal, with a leading `-` when negative. -/
def renderInt (v : Int) : List Char := if v < 0 then '-' :: renderNat v.natAbs else renderNat v.natAbs

/-- `r` and the decimal index. -/
def renderRegister (r : RegIx) : List Char := 'r' :: renderNat r.toNat

/-- A signed immediate (formats IS, M, B). -/
def renderSigned (imm : Imm16) : List Char := renderInt imm.toInt

/-- An unsigned immediate or a shift amount (formats IU, IH, L). -/
def renderUnsigned (imm : Imm16) : List Char := renderNat imm.toNat

/-- The inner text of a memory operand: `imm` when `rs = 0`; else `rN`, `rN+imm` or `rN-m`. -/
def renderMemoryInner (rs : RegIx) (imm : Imm16) : List Char :=
  if rs = 0 then renderSigned imm
  else if imm.toInt = 0 then renderRegister rs
  else if 0 < imm.toInt then renderRegister rs ++ '+' :: renderNat imm.toInt.natAbs
  else renderRegister rs ++ '-' :: renderNat imm.toInt.natAbs

/-- A memory operand. -/
def renderMemory (rs : RegIx) (imm : Imm16) : List Char := '[' :: renderMemoryInner rs imm ++ [']']

/-- The operands in the order of R105. -/
def operandTexts : Instr → List (List Char)
  | .nop => []
  | .add rd rs rt => [renderRegister rd, renderRegister rs, renderRegister rt]
  | .sub rd rs rt => [renderRegister rd, renderRegister rs, renderRegister rt]
  | .and rd rs rt => [renderRegister rd, renderRegister rs, renderRegister rt]
  | .or rd rs rt => [renderRegister rd, renderRegister rs, renderRegister rt]
  | .xor rd rs rt => [renderRegister rd, renderRegister rs, renderRegister rt]
  | .slt rd rs rt => [renderRegister rd, renderRegister rs, renderRegister rt]
  | .sltu rd rs rt => [renderRegister rd, renderRegister rs, renderRegister rt]
  | .sll rd rs rt => [renderRegister rd, renderRegister rs, renderRegister rt]
  | .srl rd rs rt => [renderRegister rd, renderRegister rs, renderRegister rt]
  | .sra rd rs rt => [renderRegister rd, renderRegister rs, renderRegister rt]
  | .addi rt rs imm => [renderRegister rt, renderRegister rs, renderSigned imm]
  | .andi rt rs imm => [renderRegister rt, renderRegister rs, renderUnsigned imm]
  | .ori rt rs imm => [renderRegister rt, renderRegister rs, renderUnsigned imm]
  | .xori rt rs imm => [renderRegister rt, renderRegister rs, renderUnsigned imm]
  | .slti rt rs imm => [renderRegister rt, renderRegister rs, renderSigned imm]
  | .slli rt rs shamt => [renderRegister rt, renderRegister rs, renderUnsigned shamt]
  | .srli rt rs shamt => [renderRegister rt, renderRegister rs, renderUnsigned shamt]
  | .srai rt rs shamt => [renderRegister rt, renderRegister rs, renderUnsigned shamt]
  | .lui rt imm => [renderRegister rt, renderUnsigned imm]
  | .load rt rs imm => [renderRegister rt, renderMemory rs imm]
  | .store rt rs imm => [renderRegister rt, renderMemory rs imm]
  | .beq rs rt imm => [renderRegister rs, renderRegister rt, renderSigned imm]
  | .bne rs rt imm => [renderRegister rs, renderRegister rt, renderSigned imm]
  | .blt rs rt imm => [renderRegister rs, renderRegister rt, renderSigned imm]
  | .bge rs rt imm => [renderRegister rs, renderRegister rt, renderSigned imm]
  | .j target => [renderNat target.toNat]
  | .jal target => [renderNat target.toNat]
  | .jr rs => [renderRegister rs]

/-- Operands separated by a comma and one space. -/
def joinOperands : List (List Char) → List Char
  | [] => []
  | [t] => t
  | t :: ts => t ++ ',' :: ' ' :: joinOperands ts

/-- The canonical text of an instruction: the mnemonic and, if there are operands, one space and the operands. -/
def renderInstr (i : Instr) : List Char :=
  match operandTexts i with
  | [] => i.mnemonic.toList
  | ts => i.mnemonic.toList ++ ' ' :: joinOperands ts

/-- The text of a reserved word. -/
def unknownText : List Char := ['u', 'n', 'k', 'n', 'o', 'w', 'n']

/-- `decode(word)` (R109). -/
def decodeText (w : Word) : List Char :=
  match decodeWord w with
  | none => unknownText
  | some i => renderInstr i

end Sys2Proof.Machine
end

