-- ==== Sys2Proof/Machine/ControlTable.lean ====
section
/-! DEFINITION. The main control table and the ALU control (44_pipeline_stages.md R213, R214), and the immediate and the jump
target the decoder forms (30_encoding.md R93). -/

namespace Sys2Proof.Machine

/-- All signals false or NONE: the row of NOP (R213: "Signals not listed are false or NONE"). -/
def Control.idle : Control where
  readsRs  := false
  readsRt  := false
  regWrite := false
  memRead  := false
  memWrite := false
  aluBImm  := false
  aluOp    := .NONE
  ctl      := .NONE

/-- The rows of format R (R140, R213). -/
def Control.register (op : AluOp) : Control :=
  { Control.idle with readsRs := true, readsRt := true, regWrite := true, aluOp := op }

/-- The rows of formats IS, IU and IH (R160, R213). -/
def Control.immediate (op : AluOp) : Control :=
  { Control.idle with readsRs := true, regWrite := true, aluBImm := true, aluOp := op }

/-- The rows of the conditional branches (R191, R213). -/
def Control.branch (ctl : CtlKind) : Control :=
  { Control.idle with readsRs := true, readsRt := true, ctl := ctl }

/-- The control signals of an instruction (R213); `alu_op` is the ALU control's choice (R214). -/
def controlOf : Instr → Control
  | .nop => Control.idle
  | .add _ _ _ => Control.register .ADD
  | .sub _ _ _ => Control.register .SUB
  | .and _ _ _ => Control.register .AND
  | .or _ _ _ => Control.register .OR
  | .xor _ _ _ => Control.register .XOR
  | .slt _ _ _ => Control.register .SLT
  | .sltu _ _ _ => Control.register .SLTU
  | .sll _ _ _ => Control.register .SLL
  | .srl _ _ _ => Control.register .SRL
  | .sra _ _ _ => Control.register .SRA
  | .addi _ _ _ => Control.immediate .ADD
  | .andi _ _ _ => Control.immediate .AND
  | .ori _ _ _ => Control.immediate .OR
  | .xori _ _ _ => Control.immediate .XOR
  | .slti _ _ _ => Control.immediate .SLT
  | .slli _ _ _ => Control.immediate .SLL
  | .srli _ _ _ => Control.immediate .SRL
  | .srai _ _ _ => Control.immediate .SRA
  | .lui _ _ => { Control.idle with regWrite := true, aluBImm := true, aluOp := .LUI }
  | .load _ _ _ => { Control.immediate .ADD with memRead := true }
  | .store _ _ _ => { Control.immediate .ADD with readsRt := true, regWrite := false, memWrite := true }
  | .beq _ _ _ => Control.branch .BEQ
  | .bne _ _ _ => Control.branch .BNE
  | .blt _ _ _ => Control.branch .BLT
  | .bge _ _ _ => Control.branch .BGE
  | .j _ => { Control.idle with ctl := .J }
  | .jal _ => { Control.idle with regWrite := true, aluOp := .LINK, ctl := .J }
  | .jr _ => { Control.idle with readsRs := true, ctl := .JR }

/-- The `dest` column of R213: the register the instruction writes, 0 when it writes none (R34). -/
def destReg : Instr → RegIx
  | .nop => 0
  | .add rd _ _ => rd
  | .sub rd _ _ => rd
  | .and rd _ _ => rd
  | .or rd _ _ => rd
  | .xor rd _ _ => rd
  | .slt rd _ _ => rd
  | .sltu rd _ _ => rd
  | .sll rd _ _ => rd
  | .srl rd _ _ => rd
  | .sra rd _ _ => rd
  | .addi rt _ _ => rt
  | .andi rt _ _ => rt
  | .ori rt _ _ => rt
  | .xori rt _ _ => rt
  | .slti rt _ _ => rt
  | .slli rt _ _ => rt
  | .srli rt _ _ => rt
  | .srai rt _ _ => rt
  | .lui rt _ => rt
  | .load rt _ _ => rt
  | .store _ _ _ => 0
  | .beq _ _ _ => 0
  | .bne _ _ _ => 0
  | .blt _ _ _ => 0
  | .bge _ _ _ => 0
  | .j _ => 0
  | .jal _ => Config.linkReg
  | .jr _ => 0

/-- The `ext` column of R213 and the `imm` column of R93: the 32-bit immediate, 0 where the format has none. -/
def immediateOf : Instr → Word
  | .nop => 0
  | .add _ _ _ => 0
  | .sub _ _ _ => 0
  | .and _ _ _ => 0
  | .or _ _ _ => 0
  | .xor _ _ _ => 0
  | .slt _ _ _ => 0
  | .sltu _ _ _ => 0
  | .sll _ _ _ => 0
  | .srl _ _ _ => 0
  | .sra _ _ _ => 0
  | .addi _ _ imm => sext32 imm
  | .andi _ _ imm => zext32 imm
  | .ori _ _ imm => zext32 imm
  | .xori _ _ imm => zext32 imm
  | .slti _ _ imm => sext32 imm
  | .slli _ _ shamt => zext32 shamt
  | .srli _ _ shamt => zext32 shamt
  | .srai _ _ shamt => zext32 shamt
  | .lui _ imm => zext32 imm
  | .load _ _ imm => sext32 imm
  | .store _ _ imm => sext32 imm
  | .beq _ _ imm => sext32 imm
  | .bne _ _ imm => sext32 imm
  | .blt _ _ imm => sext32 imm
  | .bge _ _ imm => sext32 imm
  | .j _ => 0
  | .jal _ => 0
  | .jr _ => 0

/-- `jtarget` (R93): the jump target of J and JAL, 0 for every other instruction. -/
def jumpTargetOf : Instr → Word
  | .nop => 0
  | .add _ _ _ => 0
  | .sub _ _ _ => 0
  | .and _ _ _ => 0
  | .or _ _ _ => 0
  | .xor _ _ _ => 0
  | .slt _ _ _ => 0
  | .sltu _ _ _ => 0
  | .sll _ _ _ => 0
  | .srl _ _ _ => 0
  | .sra _ _ _ => 0
  | .addi _ _ _ => 0
  | .andi _ _ _ => 0
  | .ori _ _ _ => 0
  | .xori _ _ _ => 0
  | .slti _ _ _ => 0
  | .slli _ _ _ => 0
  | .srli _ _ _ => 0
  | .srai _ _ _ => 0
  | .lui _ _ => 0
  | .load _ _ _ => 0
  | .store _ _ _ => 0
  | .beq _ _ _ => 0
  | .bne _ _ _ => 0
  | .blt _ _ _ => 0
  | .bge _ _ _ => 0
  | .j target => jumpTarget target
  | .jal target => jumpTarget target
  | .jr _ => 0

end Sys2Proof.Machine
end

