-- ==== Sys2Proof/Machine/Hazard.lean ====
section
/-! DEFINITION. The hazard detection unit (45_forwarding_hazard.md R265 to R270), over start-of-tick latch values. -/

namespace Sys2Proof.Machine

/-- The instruction word reads register `r` (R266): `reads_rs(c)` and `c[25:21] = r`, or `reads_rt(c)` and `c[20:16] = r`. A
reserved word has no control row; ID has faulted on it in this tick (R323). -/
def wordReads (w : Word) (r : RegIx) : Bool :=
  match decodeWord w with
  | none => false
  | some i => ((controlOf i).readsRs && rsOf w == r) || ((controlOf i).readsRt && rtOf w == r)

/-- `flush` (R268): every taken transfer flushes; the target is compared with nothing. -/
def flushOf (redirect : Option Word) : Bool := redirect.isSome

/-- The load-use condition (R266) without its redundant last term: a load of a register other than 0 is in EX and the instruction
in ID reads that register. -/
def loadUse (idEx : Latch IdEx) (ifId : Latch IfId) : Bool :=
  match idEx, ifId with
  | .occupied d, .occupied f => d.sig.memRead && d.dest != Config.zeroReg && wordReads f.instr d.dest
  | _, _ => false

/-- `stall` (R266): the load-use condition, and not flush. -/
def stallOf (redirect : Option Word) (idEx : Latch IdEx) (ifId : Latch IfId) : Bool :=
  !flushOf redirect && loadUse idEx ifId

end Sys2Proof.Machine
end

