-- ==== Sys2Proof/Machine/Forwarding.lean ====
section
/-! DEFINITION. The forwarding unit and the operand multiplexers (45_forwarding_hazard.md R260 to R264, 44_pipeline_stages.md R217).
Everything reads start-of-tick latch values. -/

namespace Sys2Proof.Machine

/-- A selection of the forwarding unit (10_state.md R37): a wire, not state. -/
inductive FwdSel
  | REG | EXMEM | MEMWB
  deriving DecidableEq, Repr

/-- `EX_MEM` holds an instruction that writes register `r`. -/
def exMemWrites (l : Latch ExMem) (r : RegIx) : Bool :=
  match l with
  | .empty => false
  | .occupied e => e.regWrite && e.dest == r

/-- `MEM_WB` holds an instruction that writes register `r`. -/
def memWbWrites (l : Latch MemWb) (r : RegIx) : Bool :=
  match l with
  | .empty => false
  | .occupied e => e.regWrite && e.dest == r

/-- `sel(r, reads)` (R261): the nearer producer wins (R262), register 0 is never forwarded (R263). -/
def forwardSelect (exMem : Latch ExMem) (memWb : Latch MemWb) (r : RegIx) (reads : Bool) : FwdSel :=
  if !reads || r == Config.zeroReg then .REG
  else if exMemWrites exMem r then .EXMEM
  else if memWbWrites memWb r then .MEMWB
  else .REG

/-- `fwd_a` (R261). -/
def forwardA (idEx : Latch IdEx) (exMem : Latch ExMem) (memWb : Latch MemWb) : FwdSel :=
  match idEx with
  | .empty => .REG
  | .occupied d => forwardSelect exMem memWb d.rs d.sig.readsRs

/-- `fwd_b` (R261). -/
def forwardB (idEx : Latch IdEx) (exMem : Latch ExMem) (memWb : Latch MemWb) : FwdSel :=
  match idEx with
  | .empty => .REG
  | .occupied d => forwardSelect exMem memWb d.rt d.sig.readsRt

/-- An operand multiplexer (R217): the value read in ID, `EX_MEM.alu_result` or `MEM_WB.result`. A selected latch is occupied,
so the last arm is never taken on a selection of the forwarding unit (log 8). -/
def operandMux (sel : FwdSel) (fromId : Word) (exMem : Latch ExMem) (memWb : Latch MemWb) : Word :=
  match sel, exMem, memWb with
  | .REG, _, _ => fromId
  | .EXMEM, .occupied e, _ => e.aluResult
  | .MEMWB, _, .occupied e => e.result
  | _, _, _ => fromId

end Sys2Proof.Machine
end

