-- ==== Sys2Proof/Machine/Stages.lean ====
section
/-! DEFINITION. The transition functions of the stages WB, MEM, EX, ID and IF (44_pipeline_stages.md R210 to R223) as functions of
the values they read. -/

namespace Sys2Proof.Machine

/-- WB (R222): the register file after the write-back, `x_after_wb` of R292. -/
def wbStage (x : RegFile) (memWb : Latch MemWb) : RegFile :=
  match memWb with
  | .empty => x
  | .occupied e => if e.regWrite then RegFile.write x e.dest e.result else x

/-- `result` of MEM (R221): the loaded Word for LOAD, the ALU result for every other instruction. -/
def memResult (m : Memory) (e : ExMem) : Word := if e.memRead then m.read e.aluResult else e.aluResult

/-- `DMEM'` (R221): STORE writes one cell. -/
def memStageMemory (m : Memory) (exMem : Latch ExMem) : Memory :=
  match exMem with
  | .empty => m
  | .occupied e => if e.memWrite then m.write e.aluResult e.storeData else m

/-- `MEM_WB'` (R221). -/
def memStageLatch (m : Memory) (exMem : Latch ExMem) : Latch MemWb :=
  match exMem with
  | .empty => .empty
  | .occupied e =>
    .occupied { pc := e.pc, instr := e.instr, dest := e.dest, regWrite := e.regWrite, result := memResult m e }

/-- The ALU's output in EX (R217, R218): input B is the immediate or the forwarded port-B value. -/
def exAluResult (d : IdEx) (a b : Word) : Word := alu d.sig.aluOp a (if d.sig.aluBImm then d.imm else b) d.pc

/-- `EX_MEM'` for an occupied `ID_EX` with forwarded operands `a`, `b` (R220): the store data is the forwarded `b`. -/
def exPublish (d : IdEx) (a b : Word) : ExMem where
  pc        := d.pc
  instr     := d.instr
  dest      := d.dest
  regWrite  := d.sig.regWrite
  memRead   := d.sig.memRead
  memWrite  := d.sig.memWrite
  aluResult := exAluResult d a b
  storeData := b

/-- The target a transfer in EX redirects to (R219): `jtarget` for J, operand A for JR, the branch-target adder for branches. -/
def exTarget (d : IdEx) (a : Word) : Word :=
  match d.sig.ctl with
  | .J => d.jtarget
  | .JR => a
  | .NONE => d.pc + d.imm
  | .BEQ => d.pc + d.imm
  | .BNE => d.pc + d.imm
  | .BLT => d.pc + d.imm
  | .BGE => d.pc + d.imm

/-- `redirect` for an occupied `ID_EX` with forwarded operands (R219). -/
def exRedirect (d : IdEx) (a b : Word) : Option Word :=
  if transferTaken d.sig.ctl a b then some (exTarget d a) else none

/-- `EX_MEM'` (R220), from the selections of the forwarding unit and start-of-tick latches. -/
def exStageLatch (fwdA fwdB : FwdSel) (idEx : Latch IdEx) (exMem : Latch ExMem) (memWb : Latch MemWb) : Latch ExMem :=
  match idEx with
  | .empty => .empty
  | .occupied d => .occupied (exPublish d (operandMux fwdA d.a exMem memWb) (operandMux fwdB d.b exMem memWb))

/-- The wire `redirect` (R219); `none` when `ID_EX` is empty. -/
def exStageRedirect (fwdA fwdB : FwdSel) (idEx : Latch IdEx) (exMem : Latch ExMem) (memWb : Latch MemWb) : Option Word :=
  match idEx with
  | .empty => none
  | .occupied d => exRedirect d (operandMux fwdA d.a exMem memWb) (operandMux fwdB d.b exMem memWb)

/-- ID's candidate for an instruction (R212, R216): fields of the word, the control row of its instruction, and both register
ports read from the register file as WB left it in this tick (R215). -/
def idCandidate (f : IfId) (i : Instr) (xAfterWb : RegFile) : IdEx where
  pc      := f.pc
  instr   := f.instr
  rs      := rsOf f.instr
  rt      := rtOf f.instr
  dest    := destReg i
  imm     := immediateOf i
  jtarget := jumpTargetOf i
  sig     := controlOf i
  a       := RegFile.read xAfterWb (rsOf f.instr)
  b       := RegFile.read xAfterWb (rtOf f.instr)

/-- ID (R212, R216): the candidate for `ID_EX'`, or the fault of a reserved word (R323). -/
def idStage (ifId : Latch IfId) (xAfterWb : RegFile) : Except Fault (Latch IdEx) :=
  match ifId with
  | .empty => .ok .empty
  | .occupied f =>
    match decodeWord f.instr with
    | none => .error (.reservedInstruction f.pc f.instr)
    | some i => .ok (.occupied (idCandidate f i xAfterWb))

/-- `IF_ID'` and `pc'` (R211): flush, stall, fetch, or nothing left to fetch, in this priority. `fetched` is `IMEM[pc]` or `none`
when `pc >= IMEM_LEN`. -/
def ifStage (redirect : Option Word) (stall : Bool) (ifId : Latch IfId) (pc : Word) (fetched : Option Word) :
    Latch IfId × Word :=
  match redirect with
  | some target => (.empty, target)
  | none =>
    if stall then (ifId, pc)
    else
      match fetched with
      | some w => (.occupied { pc := pc, instr := w }, nextIndex pc)
      | none => (.empty, pc)

end Sys2Proof.Machine
end

