-- ==== Sys2Proof/Machine/Tick.lean ====
section
/-! DEFINITION. The clock driver's tick (46_clock_driver.md R292) as one function of the start-of-tick state, with the wires of the
tick (10_state.md R37) and its activity records (R294). -/

namespace Sys2Proof.Machine

/-- The wires of one tick (R37): computed and consumed inside it, never carried over. -/
structure Wires where
  fwdA     : FwdSel
  fwdB     : FwdSel
  redirect : Option Word
  flush    : Bool
  stall    : Bool
  deriving DecidableEq, Repr

/-- The wires of the tick that starts in `s` (R292 steps 1, 4, 6). -/
def wires (s : State) : Wires :=
  let fwdA := forwardA s.idEx s.exMem s.memWb
  let fwdB := forwardB s.idEx s.exMem s.memWb
  let redirect := exStageRedirect fwdA fwdB s.idEx s.exMem s.memWb
  { fwdA := fwdA, fwdB := fwdB, redirect := redirect, flush := flushOf redirect, stall := stallOf redirect s.idEx s.ifId }

/-- An idle record (R294): the sentinel `none`, the word 0, not genuine. -/
def idleRecord : ActivityRecord := { pc := none, instr := 0, genuine := false }

/-- The record of a stage that processed the instruction `instr` of index `pc` (R294). -/
def activeRecord (pc instr : Word) (genuine : Bool) : ActivityRecord := { pc := some pc, instr := instr, genuine := genuine }

/-- IF's record (R294): a word was fetched, or idle (flush, stall, or nothing left). -/
def recordIF (w : Wires) (pc : Word) (fetched : Option Word) : ActivityRecord :=
  if w.flush || w.stall then idleRecord
  else
    match fetched with
    | some instr => activeRecord pc instr true
    | none => idleRecord

/-- ID's record (R294): a stalled or flushed instruction keeps its pc and word and is not genuine. -/
def recordID (w : Wires) (ifId : Latch IfId) : ActivityRecord :=
  match ifId with
  | .empty => idleRecord
  | .occupied f => activeRecord f.pc f.instr (!(w.stall || w.flush))

/-- EX's record (R294). -/
def recordEX (idEx : Latch IdEx) : ActivityRecord :=
  match idEx with
  | .empty => idleRecord
  | .occupied d => activeRecord d.pc d.instr true

/-- MEM's record (R294). -/
def recordMEM (exMem : Latch ExMem) : ActivityRecord :=
  match exMem with
  | .empty => idleRecord
  | .occupied e => activeRecord e.pc e.instr true

/-- WB's record (R294): genuine exactly in the tick its instruction retires. -/
def recordWB (memWb : Latch MemWb) : ActivityRecord :=
  match memWb with
  | .empty => idleRecord
  | .occupied e => activeRecord e.pc e.instr true

/-- The five records of the tick that starts in `s` (R294). -/
def tickRecord (s : State) : TickRecord where
  atIF  := recordIF (wires s) s.pc s.fetch
  atID  := recordID (wires s) s.ifId
  atEX  := recordEX s.idEx
  atMEM := recordMEM s.exMem
  atWB  := recordWB s.memWb

/-- `ID_EX'` (R216, R267, R269): a bubble in a tick with a flush or a stall, ID's candidate otherwise. -/
def idExNext (w : Wires) (candidate : Latch IdEx) : Latch IdEx := if w.flush || w.stall then .empty else candidate

/-- The state after a tick without a fault, given ID's candidate (R292 steps 2 to 8). Every value is a Word, so the masking pass
of step 8 (R293) is the identity and is left out (R40). -/
def tickNext (s : State) (candidate : Latch IdEx) : State :=
  let w := wires s
  let fetchedPart := ifStage w.redirect w.stall s.ifId s.pc s.fetch
  { x       := wbStage s.x s.memWb
    pc      := fetchedPart.2
    dmem    := memStageMemory s.dmem s.exMem
    imem    := s.imem
    ifId    := fetchedPart.1
    idEx    := idExNext w candidate
    exMem   := exStageLatch w.fwdA w.fwdB s.idEx s.exMem s.memWb
    memWb   := memStageLatch s.dmem s.exMem
    history := s.history ++ [tickRecord s]
    cycles  := s.cycles + 1 }

/-- One tick of the pipeline (R292): the state of the next clock cycle, or the model-level fault of a reserved word in ID (R323),
which is raised whether or not the tick has a flush or a stall. -/
def tick (s : State) : Host.Outcome State Fault Refusal :=
  match idStage s.ifId (wbStage s.x s.memWb) with
  | .error reason => .fault reason
  | .ok candidate => .next (tickNext s candidate)

end Sys2Proof.Machine
end

