-- ==== Sys2Proof/Machine/Driver.lean ====
section
/-! DEFINITION. The clock driver around the tick: the termination test (46_clock_driver.md R295), runs, the pause hook and run-mode flag
(R300), the snapshot (R299) and the end-of-run report (R301); and the sequential machine of R303 as a run. -/

namespace Sys2Proof.Machine

/-! Termination (R295). -/

/-- At least one of the IF, ID, EX, MEM records denotes a genuine instruction (R295); WB is excluded. -/
def TickRecord.anyGenuine (r : TickRecord) : Bool :=
  r.atIF.genuine || r.atID.genuine || r.atEX.genuine || r.atMEM.genuine

/-- The test made after a tick, on that tick's records: the last entry of `history` (R295). Before any tick it is true: "cycle 0
always runs". -/
def State.busy (s : State) : Bool :=
  match s.history.getLast? with
  | none => true
  | some r => r.anyGenuine

/-- How far a run came. -/
inductive RunEnd
  /-- The termination test ended the run (R297). -/
  | finished (s : State)
  /-- The model's fuel ran out: a property of the model, not of the hardware (R334). -/
  | running (s : State)
  /-- The host quit at a pause (R300); `s` is the end state of the last tick. -/
  | quit (s : State)
  /-- The driver pauses after a tick with the end state `s`, and the host, which has `snapshot s`, has not decided yet (log 11). -/
  | paused (s : State)
  /-- The model-level fault (R323). -/
  | faulted (reason : Fault)
  /-- An instruction without a meaning; no tick answers this. -/
  | refused (reason : Refusal)
  deriving DecidableEq, Repr

/-- The driver's loop (R295): tick, then test; at most `fuel` ticks. -/
def run : Nat → State → RunEnd
  | 0, s => .running s
  | fuel + 1, s =>
    match tick s with
    | .next t => if t.busy then run fuel t else .finished t
    | .fault reason => .faulted reason
    | .refused reason => .refused reason

/-- The start-of-tick states of the ticks that `run` makes, in order. -/
def runStates : Nat → State → List State
  | 0, _ => []
  | fuel + 1, s =>
    s :: match tick s with
      | .next t => if t.busy then runStates fuel t else []
      | .fault _ => []
      | .refused _ => []

/-! The pause hook and the run-mode flag (R300). -/

/-- The host's decision at a pause (R300). -/
inductive Decision
  | step | continue | quit
  deriving DecidableEq, Repr

/-- What comes of the hook after a tick. -/
inductive PauseResult
  /-- The driver goes on; `rest` are the decisions still to be taken. -/
  | goOn (rest : List Decision)
  /-- The host quits. -/
  | quit
  /-- The host has not decided yet (log 11). -/
  | waiting
  deriving DecidableEq, Repr

/-- The hook after a tick (R300): with the silent flag set the driver does not pause; unset, it takes one decision. Step and
continue both let it go on. -/
def pauseHook (silent : Bool) (decisions : List Decision) : PauseResult :=
  if silent then .goOn decisions
  else
    match decisions with
    | [] => .waiting
    | .step :: rest => .goOn rest
    | .continue :: rest => .goOn rest
    | .quit :: _ => .quit

/-- The driver's loop with the host at its hook, in the order of R295: tick, pause if not silent, then the termination test. So an
unsilent driver pauses once per cycle, after the last one too; neither the flag nor a decision enters a tick (R300). -/
def runHosted (silent : Bool) : Nat → List Decision → State → RunEnd
  | 0, _, s => .running s
  | fuel + 1, decisions, s =>
    match tick s with
    | .fault reason => .faulted reason
    | .refused reason => .refused reason
    | .next t =>
      match pauseHook silent decisions with
      | .waiting => .paused t
      | .quit => .quit t
      | .goOn rest => if t.busy then runHosted silent fuel rest t else .finished t

/-! What the host is given. -/

/-- The `pc` field of an occupied latch. -/
def latchPc {α : Type} (pcOf : α → Word) (l : Latch α) : Option Word :=
  match l with
  | .empty => none
  | .occupied v => some (pcOf v)

/-- A read-only snapshot (R299, R42): program counters (the fetch pc and the `pc` of each latch), the activity records of the last
tick, and all state of 10_state.md R20, which R42 makes observable to the host between ticks. -/
structure Snapshot where
  pc       : Word
  ifIdPc   : Option Word
  idExPc   : Option Word
  exMemPc  : Option Word
  memWbPc  : Option Word
  x        : RegFile
  dmem     : Memory
  imem     : List Word
  ifId     : Latch IfId
  idEx     : Latch IdEx
  exMem    : Latch ExMem
  memWb    : Latch MemWb
  activity : Option TickRecord
  history  : List TickRecord
  cycles   : Nat
  deriving DecidableEq, Repr

/-- The snapshot after a tick is taken of that tick's end state (R299). -/
def snapshot (s : State) : Snapshot where
  pc       := s.pc
  ifIdPc   := latchPc (·.pc) s.ifId
  idExPc   := latchPc (·.pc) s.idEx
  exMemPc  := latchPc (·.pc) s.exMem
  memWbPc  := latchPc (·.pc) s.memWb
  x        := s.x
  dmem     := s.dmem
  imem     := s.imem
  ifId     := s.ifId
  idEx     := s.idEx
  exMem    := s.exMem
  memWb    := s.memWb
  activity := s.history.getLast?
  history  := s.history
  cycles   := s.cycles

/-- The five stages (R210). -/
inductive Stage
  | IF | ID | EX | MEM | WB
  deriving DecidableEq, Repr

/-- A stage that executed a genuine instruction in a tick, with the instruction's pc and word (R301). -/
structure GenuineStage where
  stage : Stage
  pc    : Option Word
  instr : Word
  deriving DecidableEq, Repr

/-- The entry of one stage, if its record is genuine. -/
def genuineEntry (stage : Stage) (r : ActivityRecord) : List GenuineStage :=
  if r.genuine then [{ stage := stage, pc := r.pc, instr := r.instr }] else []

/-- The stages that executed a genuine instruction in a tick (R301). -/
def genuineStages (r : TickRecord) : List GenuineStage :=
  genuineEntry .IF r.atIF ++ genuineEntry .ID r.atID ++ genuineEntry .EX r.atEX ++ genuineEntry .MEM r.atMEM ++
    genuineEntry .WB r.atWB

/-- The end-of-run report (R301): the cycle count and, per cycle, the stages that executed a genuine instruction. -/
structure Report where
  cycles : Nat
  stages : List (List GenuineStage)
  deriving DecidableEq, Repr

/-- The report of a run that ended in `s`. -/
def report (s : State) : Report := { cycles := s.cycles, stages := s.history.map genuineStages }

/-- The summary output a run ends with: the report of R301 after the termination test or a quit (R300: "end/quit transitions directly
to summary output"); none while it has not ended, and none after a fault, beyond which its state is not defined (R323). -/
def RunEnd.summary : RunEnd → Option Report
  | .finished s => some (report s)
  | .quit s => some (report s)
  | .running _ => none
  | .paused _ => none
  | .faulted _ => none
  | .refused _ => none

/-! What a run did, read from its records and its tick states. -/

/-- The `(pc, instr)` of a genuine WB record: a retired instruction (R294, R331). -/
def retiredEntry (r : TickRecord) : Option (Word × Word) :=
  if r.atWB.genuine then r.atWB.pc.map (·, r.atWB.instr) else none

/-- The retired instructions of a history, in order. -/
def retired (history : List TickRecord) : List (Word × Word) := history.filterMap retiredEntry

/-- A data-memory access: the cell and the Word loaded from it or stored to it (R62, R70). -/
inductive MemAccess
  | load (cell : Nat) (v : Word)
  | store (cell : Nat) (v : Word)
  deriving DecidableEq, Repr

/-- The access MEM makes in the tick that starts in `s` (R221): none, a load or a store. -/
def tickAccess (s : State) : Option MemAccess :=
  match s.exMem with
  | .empty => none
  | .occupied e =>
    if e.memRead then some (.load (s.dmem.cellOf e.aluResult) (s.dmem.read e.aluResult))
    else if e.memWrite then some (.store (s.dmem.cellOf e.aluResult) e.storeData)
    else none

/-! The sequential machine of R303. -/

/-- The access the instruction at `IMEM[pc]` makes when executed in `s`. -/
def stepAccess (s : State) : Option MemAccess :=
  match s.fetch.bind decodeWord with
  | some (.load _ rs imm) =>
    some (.load (s.dmem.cellOf (s.dataAddress rs imm)) (s.memRead (s.dataAddress rs imm)))
  | some (.store rt rs imm) => some (.store (s.dmem.cellOf (s.dataAddress rs imm)) (s.readReg rt))
  | _ => none

/-- A halted sequential run: its final state, the instructions it executed, in order, and its accesses, in order. -/
structure SeqRun where
  final    : State
  executed : List (Word × Word)
  accesses : List MemAccess
  deriving DecidableEq, Repr

/-- `while pc < IMEM_LEN` execute `IMEM[pc]` (R303); `none` when it has not halted after `fuel` steps or met a reserved word. -/
def seqRun : Nat → State → Option SeqRun
  | 0, s => if s.fetch = none then some { final := s, executed := [], accesses := [] } else none
  | fuel + 1, s =>
    match s.fetch with
    | none => some { final := s, executed := [], accesses := [] }
    | some w =>
      match step s with
      | .next t =>
        (seqRun fuel t).map fun r =>
          { r with executed := (s.pc, w) :: r.executed, accesses := (stepAccess s).toList ++ r.accesses }
      | .fault _ => none
      | .refused _ => none

/-- The machine whose step is one tick: the clock driver's view of the same state (R292, log 1). -/
def clockedCore : Host.Core where
  State   := State
  Fault   := Fault
  Refusal := Refusal
  step    := tick
  reset   := State.reset

end Sys2Proof.Machine
end

