-- ==== Sys2Proof/Machine/Assembler.lean ====
section
/-! DEFINITION. The text encoder of the codec (30_encoding.md R100 to R107): from a source line to a word or an error kind. It is
toolchain that runs before the first tick (00_scope.md R5). Text is a list of characters (log 10). -/

namespace Sys2Proof.Machine

/-- Why a line does not encode (R106, R324). -/
inductive ErrorKind
  /-- The mnemonic is unrecognized. -/
  | InvalidInstruction
  /-- An operand count or shape mismatches, or a token is malformed. -/
  | InvalidArgument
  /-- A register or immediate value exceeds its bit field. -/
  | FieldOverflow
  deriving DecidableEq, Repr

/-! Lines and tokens (R100, R101). -/

/-- Spaces and tabs (R100; log 9). -/
def isBlank (c : Char) : Bool := c == ' ' || c == '\t'

def dropTrailingBlanks (t : List Char) : List Char := (t.reverse.dropWhile isBlank).reverse

/-- Leading and trailing blanks deleted. -/
def trimBlanks (t : List Char) : List Char := dropTrailingBlanks (t.dropWhile isBlank)

/-- A trailing carriage return deleted. -/
def dropCarriageReturn (t : List Char) : List Char := if t.getLast? = some '\r' then t.dropLast else t

/-- A source line without its comment, its leading and trailing whitespace and a trailing carriage return (R100). -/
def stripLine (line : List Char) : List Char :=
  trimBlanks (dropCarriageReturn (dropTrailingBlanks (line.takeWhile (· != '#'))))

/-- The mnemonic token: the maximal run of non-blank characters at the start (R101). -/
def mnemonicToken (line : List Char) : List Char := line.takeWhile (!isBlank ·)

/-- The operand text: what follows the mnemonic, trimmed (R101). -/
def operandText (line : List Char) : List Char := trimBlanks (line.dropWhile (!isBlank ·))

/-- A text split at every comma (R101). -/
def splitCommas : List Char → List (List Char)
  | [] => [[]]
  | c :: rest =>
    if c == ',' then [] :: splitCommas rest
    else
      match splitCommas rest with
      | [] => [[c]]
      | token :: tokens => (c :: token) :: tokens

/-- The operand tokens: none for an empty operand text, else the trimmed parts between commas (R101). -/
def operandTokens (line : List Char) : List (List Char) :=
  if operandText line = [] then [] else (splitCommas (operandText line)).map trimBlanks

/-! Numbers and registers (R102, R103). -/

/-- One or more decimal digits. -/
def parseDecimal (t : List Char) : Option Nat :=
  if t ≠ [] ∧ t.all Char.isDigit then some (Nat.ofDigitChars 10 t 0) else none

/-- The value of a hexadecimal digit. -/
def hexDigit (c : Char) : Option Nat :=
  if c.isDigit then some (c.toNat - '0'.toNat)
  else if 'a' ≤ c ∧ c ≤ 'f' then some (c.toNat - 'a'.toNat + 10)
  else if 'A' ≤ c ∧ c ≤ 'F' then some (c.toNat - 'A'.toNat + 10)
  else none

/-- Hexadecimal digits after a value read so far. -/
def hexFrom : Nat → List Char → Option Nat
  | v, [] => some v
  | v, c :: rest => (hexDigit c).bind fun d => hexFrom (16 * v + d) rest

/-- One or more hexadecimal digits. -/
def parseHex (t : List Char) : Option Nat := if t = [] then none else hexFrom 0 t

/-- Digits, or `0x` or `0X` and hexadecimal digits (R103, R104). -/
def parseUnsigned (t : List Char) : Option Nat :=
  match t with
  | '0' :: 'x' :: digits => parseHex digits
  | '0' :: 'X' :: digits => parseHex digits
  | _ => parseDecimal t

/-- An integer token: an optional sign and an unsigned number; the value is the signed mathematical integer (R103). -/
def parseInteger (t : List Char) : Option Int :=
  match t with
  | '+' :: u => (parseUnsigned u).map fun n => (n : Int)
  | '-' :: u => (parseUnsigned u).map fun n => -(n : Int)
  | _ => (parseUnsigned t).map fun n => (n : Int)

/-- A register token: `r` or `R` and decimal digits; its range is checked later (R102). -/
def parseRegister (t : List Char) : Option Nat :=
  match t with
  | 'r' :: digits => parseDecimal digits
  | 'R' :: digits => parseDecimal digits
  | _ => none

/-! Memory operands (R104). -/

def isSign (c : Char) : Bool := c == '+' || c == '-'

/-- The inner text of a memory operand, blanks removed: base register and offset (the four rows of R104). -/
def parseMemoryInner (t : List Char) : Option (Nat × Int) :=
  match parseInteger t with
  | some v => some (0, v)
  | none =>
    (parseRegister (t.takeWhile (!isSign ·))).bind fun base =>
      match t.dropWhile (!isSign ·) with
      | [] => some (base, 0)
      | '+' :: u => (parseUnsigned u).map fun n => (base, (n : Int))
      | '-' :: u => (parseUnsigned u).map fun n => (base, -(n : Int))
      | _ => none

/-- A memory operand token: `[`, an inner text, `]` (R104). -/
def parseMemory (t : List Char) : Option (Nat × Int) :=
  match t with
  | '[' :: rest => if rest.getLast? = some ']' then parseMemoryInner (rest.dropLast.filter (!isBlank ·)) else none
  | _ => none

/-! Operands (R105, R106). -/

/-- The shape R105 expects at a position; an integer has the range of R93. -/
inductive OperandShape
  | register
  | integer (lo hi : Int)
  | memory
  deriving DecidableEq, Repr

/-- A parsed operand; its range is not checked yet. -/
inductive Operand
  | register (n : Nat)
  | integer (v : Int)
  | memory (base : Nat) (offset : Int)
  deriving DecidableEq, Repr

/-- Range of a signed 16-bit operand (R93). -/
def OperandShape.signed16 : OperandShape := .integer (-32768) 32767
/-- Range of an unsigned 16-bit operand (R93). -/
def OperandShape.unsigned16 : OperandShape := .integer 0 65535
/-- Range of a shift amount (R93). -/
def OperandShape.shift : OperandShape := .integer 0 31
/-- Range of a jump target (R93). -/
def OperandShape.target26 : OperandShape := .integer 0 67108863

/-- Step 3 of R106 for one token. -/
def parseOperand (shape : OperandShape) (t : List Char) : Option Operand :=
  match shape with
  | .register => (parseRegister t).map .register
  | .integer _ _ => (parseInteger t).map .integer
  | .memory => (parseMemory t).map fun p => .memory p.1 p.2

/-- Step 3 of R106: every token has the shape expected at its position. -/
def parseOperands : List OperandShape → List (List Char) → Option (List Operand)
  | [], [] => some []
  | shape :: shapes, t :: ts =>
    (parseOperand shape t).bind fun o => (parseOperands shapes ts).map fun os => o :: os
  | _, _ => none

/-- Step 4 of R106 for one operand: a register at most 31, an integer in its range, an offset in the signed range. -/
def operandInRange (shape : OperandShape) (o : Operand) : Bool :=
  match shape, o with
  | .integer lo hi, .integer v => decide (lo ≤ v ∧ v ≤ hi)
  | _, .register n => decide (n ≤ 31)
  | _, .memory base offset => decide (base ≤ 31 ∧ -32768 ≤ offset ∧ offset ≤ 32767)
  | _, .integer _ => false

/-- Step 4 of R106: every operand is in its range. -/
def operandsInRange (shapes : List OperandShape) (os : List Operand) : Bool :=
  (List.zipWith operandInRange shapes os).all id

/-! Mnemonics (R94, R105). -/

/-- An instruction that waits for its operands, by format (R92). -/
inductive Template
  | n (i : Instr)
  | r (mk : RegIx → RegIx → RegIx → Instr)
  | is (mk : RegIx → RegIx → Imm16 → Instr)
  | iu (mk : RegIx → RegIx → Imm16 → Instr)
  | ih (mk : RegIx → RegIx → Imm16 → Instr)
  | l (mk : RegIx → Imm16 → Instr)
  | m (mk : RegIx → RegIx → Imm16 → Instr)
  | b (mk : RegIx → RegIx → Imm16 → Instr)
  | j (mk : Target26 → Instr)
  | jr (mk : RegIx → Instr)

/-- The operands of a format, in assembler order (R92, R105). -/
def Template.shapes : Template → List OperandShape
  | .n _ => []
  | .r _ => [.register, .register, .register]
  | .is _ => [.register, .register, .signed16]
  | .iu _ => [.register, .register, .unsigned16]
  | .ih _ => [.register, .register, .shift]
  | .l _ => [.register, .unsigned16]
  | .m _ => [.register, .memory]
  | .b _ => [.register, .register, .signed16]
  | .j _ => [.target26]
  | .jr _ => [.register]

/-- Register operands are placed in their fields as unsigned numbers (R93). -/
def regField (n : Nat) : RegIx := BitVec.ofNat 5 n

/-- An integer operand `v` is placed in the 16-bit field as `v mod 2^16` (R93). -/
def immField (v : Int) : Imm16 := BitVec.ofInt 16 v

/-- The jump target field (R93). -/
def targetField (v : Int) : Target26 := BitVec.ofInt 26 v

/-- The instruction with its operands in place; `none` when the operands do not have the template's shapes. -/
def Template.build (t : Template) (os : List Operand) : Option Instr :=
  match t, os with
  | .n i, [] => some i
  | .r mk, [.register d, .register s, .register t] => some (mk (regField d) (regField s) (regField t))
  | .is mk, [.register t, .register s, .integer v] => some (mk (regField t) (regField s) (immField v))
  | .iu mk, [.register t, .register s, .integer v] => some (mk (regField t) (regField s) (immField v))
  | .ih mk, [.register t, .register s, .integer v] => some (mk (regField t) (regField s) (immField v))
  | .l mk, [.register t, .integer v] => some (mk (regField t) (immField v))
  | .m mk, [.register t, .memory s v] => some (mk (regField t) (regField s) (immField v))
  | .b mk, [.register s, .register t, .integer v] => some (mk (regField s) (regField t) (immField v))
  | .j mk, [.integer v] => some (mk (targetField v))
  | .jr mk, [.register s] => some (mk (regField s))
  | _, _ => none

/-- The mnemonics of NOP and the register ALU (R94). -/
def registerTemplates : List (String × Template) := [
  ("NOP", .n .nop),
  ("ADD", .r .add), ("SUB", .r .sub), ("AND", .r .and), ("OR", .r .or), ("XOR", .r .xor),
  ("SLT", .r .slt), ("SLTU", .r .sltu), ("SLL", .r .sll), ("SRL", .r .srl), ("SRA", .r .sra)]

/-- The mnemonics of the immediate ALU (R94). -/
def immediateTemplates : List (String × Template) := [
  ("ADDI", .is .addi), ("ANDI", .iu .andi), ("ORI", .iu .ori), ("XORI", .iu .xori), ("SLTI", .is .slti),
  ("SLLI", .ih .slli), ("SRLI", .ih .srli), ("SRAI", .ih .srai), ("LUI", .l .lui)]

/-- The mnemonics of memory and control transfer (R94). -/
def memoryAndTransferTemplates : List (String × Template) := [
  ("LOAD", .m .load), ("STORE", .m .store),
  ("BEQ", .b .beq), ("BNE", .b .bne), ("BLT", .b .blt), ("BGE", .b .bge),
  ("J", .j .j), ("JAL", .j .jal), ("JR", .jr .jr)]

/-- The 29 mnemonics (R94). -/
def templates : List (String × Template) := registerTemplates ++ immediateTemplates ++ memoryAndTransferTemplates

/-- The template of a mnemonic token, compared without regard to letter case (R101). -/
def findTemplate (token : List Char) : Option Template :=
  (templates.find? fun p => p.1.toList == token.map Char.toUpper).map Prod.snd

/-! The encoder (R106). -/

/-- Steps 2 to 4 of R106 for the operand tokens of a known mnemonic: count and empty tokens, shapes, ranges. -/
def assembleOperands (t : Template) (tokens : List (List Char)) : Except ErrorKind Instr :=
  if tokens.length ≠ t.shapes.length ∨ [] ∈ tokens then .error .InvalidArgument
  else
    match parseOperands t.shapes tokens with
    | none => .error .InvalidArgument
    | some os =>
      if operandsInRange t.shapes os then
        match t.build os with
        | some i => .ok i
        | none => .error .InvalidArgument
      else .error .FieldOverflow

/-- The instruction a stripped line stands for, or the first check of R106 that fails. -/
def assembleLine (line : List Char) : Except ErrorKind Instr :=
  match findTemplate (mnemonicToken line) with
  | none => .error .InvalidInstruction
  | some t => assembleOperands t (operandTokens line)

/-- `encode(line)` (R106) of a trimmed, comment-stripped line: a word or exactly one error kind. -/
def encodeLine (line : List Char) : Except ErrorKind Word :=
  match assembleLine line with
  | .error kind => .error kind
  | .ok i => .ok (encode i)

end Sys2Proof.Machine
end

