-- ==== Sys2Proof/Machine/Loader.lean ====
section
/-! DEFINITION. Loading a program from its source lines (30_encoding.md R100, R107, R108, 46_clock_driver.md R298). -/

namespace Sys2Proof.Machine

/-- The report of an aborted load (R100): line number from 1, offending text (the line as it stands; log 10), error kind. -/
structure LoadError where
  line : Nat
  text : List Char
  kind : ErrorKind
  deriving DecidableEq, Repr

/-- The words of the lines from line number `n` on; the first line that does not encode aborts (R100, R107). A line that is empty
once stripped is skipped and takes no index (R108). -/
def loadFrom : Nat → List (List Char) → Except LoadError (List Word)
  | _, [] => .ok []
  | n, line :: rest =>
    if stripLine line = [] then loadFrom (n + 1) rest
    else
      match encodeLine (stripLine line) with
      | .error kind => .error { line := n, text := line, kind := kind }
      | .ok w =>
        match loadFrom (n + 1) rest with
        | .error e => .error e
        | .ok ws => .ok (w :: ws)

/-- `IMEM` from the source lines: the words in line order (R108). Line numbers count every line from 1 (R100); `IMEM_LEN` is
not checked against its bound (log 14). -/
def loadProgram (lines : List (List Char)) : Except LoadError (List Word) := loadFrom 1 lines

/-- A whole run from source text (R298): a loading error aborts before any tick; else reset with the launch parameters and tick
until the termination test or the fuel ends the run. -/
def runProgram (lines : List (List Char)) (sizeLog2 : Fin 33) (regInit : RegFile) (dmemInit : List Word) (fuel : Nat) :
    Except LoadError RunEnd :=
  match loadProgram lines with
  | .error e => .error e
  | .ok imem => .ok (run fuel (State.launch imem sizeLog2 regInit dmemInit))

end Sys2Proof.Machine
end

