-- ==== Sys2Proof/Machine/OrderedTick.lean ====
section
/-! DEFINITION. The tick in the source's own form (46_clock_driver.md R290): the seven units called one after the other, each on
the machine as the earlier ones left it. `tick` is the order-free form (R291; log 13). -/

namespace Sys2Proof.Machine

/-- The forwarding unit's outputs with the values it captured before WB and MEM overwrite the latches (R260, R291 b). -/
structure Captured where
  fwdA  : FwdSel
  fwdB  : FwdSel
  exMem : Latch ExMem
  memWb : Latch MemWb
  deriving DecidableEq, Repr

/-- First: the forwarding unit (R260). -/
def callForwarding (s : State) : Captured where
  fwdA  := forwardA s.idEx s.exMem s.memWb
  fwdB  := forwardB s.idEx s.exMem s.memWb
  exMem := s.exMem
  memWb := s.memWb

/-- Second: WB (R222). -/
def callWB (s : State) : State := { s with x := wbStage s.x s.memWb }

/-- Third: MEM (R221). -/
def callMEM (s : State) : State :=
  { s with dmem := memStageMemory s.dmem s.exMem, memWb := memStageLatch s.dmem s.exMem }

/-- Fourth: EX (R217 to R220), with the captured selections and values; it leaves `redirect`. -/
def callEX (c : Captured) (s : State) : State × Option Word :=
  ({ s with exMem := exStageLatch c.fwdA c.fwdB s.idEx c.exMem c.memWb },
    exStageRedirect c.fwdA c.fwdB s.idEx c.exMem c.memWb)

/-- Fifth: ID (R212 to R216), which reads the register file WB has written and puts its candidate into `ID_EX`. -/
def callID (s : State) : Except Fault State :=
  match idStage s.ifId s.x with
  | .error reason => .error reason
  | .ok candidate => .ok { s with idEx := candidate }

/-- Sixth: the hazard unit (R265). The instruction that was in EX has been published to `EX_MEM`, where its `mem_read` and `dest`
now stand; the instruction in ID is still in `IF_ID`. It leaves `stall` and clears `ID_EX` on a stall or a flush. -/
def callHazard (redirect : Option Word) (s : State) : State × Bool :=
  let stall := !flushOf redirect &&
    match s.exMem, s.ifId with
    | .occupied e, .occupied f => e.memRead && e.dest != Config.zeroReg && wordReads f.instr e.dest
    | _, _ => false
  ({ s with idEx := if flushOf redirect || stall then .empty else s.idEx }, stall)

/-- Seventh: IF (R211). -/
def callIF (redirect : Option Word) (stall : Bool) (s : State) : State :=
  let r := ifStage redirect stall s.ifId s.pc s.fetch
  { s with ifId := r.1, pc := r.2 }

/-- The re-masking pass (R293): every register and every listed cell `AND 0xFFFFFFFF`. -/
def remask (s : State) : State :=
  { s with
    x := s.x.map (· &&& 0xFFFFFFFF)
    dmem := { s.dmem with cells := s.dmem.cells.map fun c => (c.1, c.2 &&& 0xFFFFFFFF) } }

/-- One cycle in the source's call order (R290): the seven units, the masking pass, then one activity record per stage. -/
def tickOrdered (s : State) : Host.Outcome State Fault Refusal :=
  let captured := callForwarding s
  let afterMEM := callMEM (callWB s)
  let (afterEX, redirect) := callEX captured afterMEM
  match callID afterEX with
  | .error reason => .fault reason
  | .ok afterID =>
    let (afterHazard, stall) := callHazard redirect afterID
    let masked := remask (callIF redirect stall afterHazard)
    .next { masked with history := masked.history ++ [tickRecord s], cycles := masked.cycles + 1 }

end Sys2Proof.Machine
end

