-- ==== Sys2Proof/Safety.lean ====
section
/-! DEFINITION. The terms claims are stated in: frames of an instruction, what the rules say of one instruction, the invariants of
the state, the architectural view of a pipeline state, and the counts of a run. -/

namespace Sys2Proof.Machine

/-! Frames of one instruction at the sequential level. -/

/-- Register `rd` takes the value `v` and every other register keeps its own; with `rd = 0` every register keeps its own
(10_state.md R22). -/
def WritesRegister (s t : State) (rd : RegIx) (v : Word) : Prop :=
  ∀ r, t.readReg r = if r = rd ∧ rd ≠ 0 then v else s.readReg r

/-- Every register keeps its value. -/
def KeepsRegisters (s t : State) : Prop := ∀ r, t.readReg r = s.readReg r

/-- Every data address reads as before, and the size of data memory is the same. -/
def KeepsMemory (s t : State) : Prop := t.dmem.sizeLog2 = s.dmem.sizeLog2 ∧ ∀ addr, t.memRead addr = s.memRead addr

/-- The cell of the data address `ea` takes the value `v`; every address that names another cell reads as before. -/
def StoresWord (s t : State) (ea v : Word) : Prop :=
  t.dmem.sizeLog2 = s.dmem.sizeLog2 ∧
    ∀ addr, t.memRead addr = if s.dmem.cellOf addr = s.dmem.cellOf ea then v else s.memRead addr

/-- Instruction memory, latches and the driver's records are as before: an instruction rule names none of them. -/
def KeepsPipeline (s t : State) : Prop :=
  t.imem = s.imem ∧ t.ifId = s.ifId ∧ t.idEx = s.idEx ∧ t.exMem = s.exMem ∧ t.memWb = s.memWb ∧ t.history = s.history ∧
    t.cycles = s.cycles

/-- The instruction `i` runs in `s`: register `rd` takes `v`, the pc moves on by one, nothing else changes. -/
def RunsToRegister (i : Instr) (s : State) (rd : RegIx) (v : Word) : Prop :=
  ∃ t, exec i s = .next t ∧ WritesRegister s t rd v ∧ t.pc = s.pc + 1 ∧ KeepsMemory s t ∧ KeepsPipeline s t

/-- The instruction `i` runs in `s`: the pc becomes `target`, nothing else changes. -/
def RunsToPc (i : Instr) (s : State) (target : Word) : Prop :=
  ∃ t, exec i s = .next t ∧ t.pc = target ∧ KeepsRegisters s t ∧ KeepsMemory s t ∧ KeepsPipeline s t

/-! What EX publishes (44_pipeline_stages.md R217, R220). -/

/-- In the tick from `s` to `t`, EX publishes the instruction `d` of ID/EX, with operands from the forwarding multiplexers. -/
def PublishesFrom (s t : State) (d : IdEx) : Prop :=
  let a := operandMux (wires s).fwdA d.a s.exMem s.memWb
  let b := operandMux (wires s).fwdB d.b s.exMem s.memWb
  t.exMem = .occupied
    { pc := d.pc, instr := d.instr, dest := d.dest, regWrite := d.sig.regWrite, memRead := d.sig.memRead,
      memWrite := d.sig.memWrite, aluResult := alu d.sig.aluOp a (if d.sig.aluBImm then d.imm else b) d.pc, storeData := b }

/-! What the rules say of one instruction: its word, its control row, its effect. -/

/-- One of R142 to R151: opcode `op`, format R, ALU operation `aluOp`, `x[rd] <- f(x[rs], x[rt])`. -/
def RegisterRule (mk : RegIx → RegIx → RegIx → Instr) (op : BitVec 6) (aluOp : AluOp) (f : Word → Word → Word) : Prop :=
  ∀ rd rs rt s,
    encode (mk rd rs rt) = op ++ rs ++ rt ++ rd ++ (0 : BitVec 11) ∧
    decodeWord (op ++ rs ++ rt ++ rd ++ (0 : BitVec 11)) = some (mk rd rs rt) ∧
    controlOf (mk rd rs rt) = Control.register aluOp ∧
    destReg (mk rd rs rt) = rd ∧
    RunsToRegister (mk rd rs rt) s rd (f (s.readReg rs) (s.readReg rt))

/-- One of R161 to R168: opcode `op`, assembler range `lo` to `hi`, an immediate field that satisfies `fits`, ALU operation `aluOp`,
`x[rt] <- f(x[rs], imm16)`. `ext` is the immediate the decoder forms. -/
def ImmediateRule (mk : RegIx → RegIx → Imm16 → Instr) (op : BitVec 6) (lo hi : Int) (fits : Imm16 → Prop) (aluOp : AluOp)
    (ext : Imm16 → Word) (f : Word → Imm16 → Word) : Prop :=
  ∀ rt rs imm s, fits imm →
    (findTemplate (mk rt rs imm).mnemonic.toList).map Template.shapes = some [.register, .register, .integer lo hi] ∧
    encode (mk rt rs imm) = op ++ rs ++ rt ++ imm ∧
    decodeWord (op ++ rs ++ rt ++ imm) = some (mk rt rs imm) ∧
    controlOf (mk rt rs imm) = Control.immediate aluOp ∧
    destReg (mk rt rs imm) = rt ∧
    immediateOf (mk rt rs imm) = ext imm ∧
    RunsToRegister (mk rt rs imm) s rt (f (s.readReg rs) imm)

/-- One of R191 to R194: opcode `op`, format B, taken when `cond` holds of the two registers. -/
def BranchRule (mk : RegIx → RegIx → Imm16 → Instr) (op : BitVec 6) (ctl : CtlKind) (cond : Word → Word → Prop) : Prop :=
  ∀ rs rt imm s,
    encode (mk rs rt imm) = op ++ rs ++ rt ++ imm ∧
    decodeWord (op ++ rs ++ rt ++ imm) = some (mk rs rt imm) ∧
    controlOf (mk rs rt imm) = Control.branch ctl ∧
    destReg (mk rs rt imm) = 0 ∧
    (cond (s.readReg rs) (s.readReg rt) → RunsToPc (mk rs rt imm) s (mask32 (s.pc.toNat + imm.toInt))) ∧
    (¬cond (s.readReg rs) (s.readReg rt) → RunsToPc (mk rs rt imm) s (s.pc + 1))

/-- The effect of JAL (R196): register 31 takes `pc + 1`, the pc becomes `target`, nothing else changes. -/
def RunsToLinkAndPc (i : Instr) (s : State) (target : Word) : Prop :=
  ∃ t, exec i s = .next t ∧ WritesRegister s t 31 (s.pc + 1) ∧ t.pc = target ∧ KeepsMemory s t ∧ KeepsPipeline s t

/-! Ranges of operands in a source line (30_encoding.md R93, R106). -/

/-- The source line of a mnemonic and operand tokens, in the canonical spacing. -/
def sourceLine (mnemonic : String) (tokens : List (List Char)) : List Char := mnemonic.toList ++ ' ' :: joinOperands tokens

/-- The token `rN` of any register number, also of one that does not exist. -/
def registerToken (n : Nat) : List Char := 'r' :: renderNat n

/-- The token `[rN+v]` or `[rN-m]`. -/
def memoryToken (n : Nat) (v : Int) : List Char :=
  '[' :: registerToken n ++ (if v < 0 then renderInt v else '+' :: renderInt v) ++ [']']

/-- `line` encodes to the word of `i` when `inRange` holds, and is a FieldOverflow otherwise. -/
def EncodesIf (line : List Char) (inRange : Prop) (i : Instr) : Prop :=
  (inRange → encodeLine line = .ok (encode i)) ∧ (¬inRange → encodeLine line = .error .FieldOverflow)

/-- Formats IS, IU, IH (and B, whose operands are `rs, rt, imm`): two registers and an integer from `lo` to `hi`. -/
def IntegerThirdRule (mk : RegIx → RegIx → Imm16 → Instr) (lo hi : Int) : Prop :=
  ∀ (r q : RegIx) (v : Int),
    EncodesIf (sourceLine (mk 0 0 0).mnemonic [renderRegister r, renderRegister q, renderInt v]) (lo ≤ v ∧ v ≤ hi)
      (mk r q (BitVec.ofInt 16 v))

/-- Format M: the offset, -32768 to 32767, after a base register or alone, where the base is register 0. -/
def OffsetRule (mk : RegIx → RegIx → Imm16 → Instr) : Prop :=
  ∀ (r base : RegIx) (v : Int),
    EncodesIf (sourceLine (mk 0 0 0).mnemonic [renderRegister r, memoryToken base.toNat v]) (-32768 ≤ v ∧ v ≤ 32767)
      (mk r base (BitVec.ofInt 16 v)) ∧
    EncodesIf (sourceLine (mk 0 0 0).mnemonic [renderRegister r, '[' :: renderInt v ++ [']']]) (-32768 ≤ v ∧ v ≤ 32767)
      (mk r 0 (BitVec.ofInt 16 v))

/-- Format J: an index from 0 to 2^26 - 1. -/
def TargetRule (mk : Target26 → Instr) : Prop :=
  ∀ v : Int, EncodesIf (sourceLine (mk 0).mnemonic [renderInt v]) (0 ≤ v ∧ v ≤ 67108863) (mk (BitVec.ofInt 26 v))

/-- Format R: three register numbers, each at most 31. -/
def RegistersRule (mk : RegIx → RegIx → RegIx → Instr) : Prop :=
  ∀ d s t : Nat,
    EncodesIf (sourceLine (mk 0 0 0).mnemonic [registerToken d, registerToken s, registerToken t]) (d ≤ 31 ∧ s ≤ 31 ∧ t ≤ 31)
      (mk (BitVec.ofNat 5 d) (BitVec.ofNat 5 s) (BitVec.ofNat 5 t))

/-- Formats IS, IU, IH and B: two register numbers, each at most 31, before an integer in every range. -/
def RegistersBeforeIntegerRule (mk : RegIx → RegIx → Imm16 → Instr) : Prop :=
  ∀ r q : Nat,
    EncodesIf (sourceLine (mk 0 0 0).mnemonic [registerToken r, registerToken q, ['0']]) (r ≤ 31 ∧ q ≤ 31)
      (mk (BitVec.ofNat 5 r) (BitVec.ofNat 5 q) 0)

/-- Format M: the data register and the base register, each at most 31. -/
def RegisterAndBaseRule (mk : RegIx → RegIx → Imm16 → Instr) : Prop :=
  ∀ r base : Nat,
    EncodesIf (sourceLine (mk 0 0 0).mnemonic [registerToken r, '[' :: registerToken base ++ [']']]) (r ≤ 31 ∧ base ≤ 31)
      (mk (BitVec.ofNat 5 r) (BitVec.ofNat 5 base) 0)

/-! Operand roles (30_encoding.md R95), read from the assembler operands. -/

/-- The registers an instruction takes values from: the register operands that are no destination, and the stored register. -/
def sourceRegs : Instr → List RegIx
  | .nop => []
  | .add _ rs rt => [rs, rt]
  | .sub _ rs rt => [rs, rt]
  | .and _ rs rt => [rs, rt]
  | .or _ rs rt => [rs, rt]
  | .xor _ rs rt => [rs, rt]
  | .slt _ rs rt => [rs, rt]
  | .sltu _ rs rt => [rs, rt]
  | .sll _ rs rt => [rs, rt]
  | .srl _ rs rt => [rs, rt]
  | .sra _ rs rt => [rs, rt]
  | .addi _ rs _ => [rs]
  | .andi _ rs _ => [rs]
  | .ori _ rs _ => [rs]
  | .xori _ rs _ => [rs]
  | .slti _ rs _ => [rs]
  | .slli _ rs _ => [rs]
  | .srli _ rs _ => [rs]
  | .srai _ rs _ => [rs]
  | .lui _ _ => []
  | .load _ rs _ => [rs]
  | .store rt rs _ => [rs, rt]
  | .beq rs rt _ => [rs, rt]
  | .bne rs rt _ => [rs, rt]
  | .blt rs rt _ => [rs, rt]
  | .bge rs rt _ => [rs, rt]
  | .j _ => []
  | .jal _ => []
  | .jr rs => [rs]

/-! Invariants of the state. -/

/-- The architectural part is legal: slot 0 of the register file is 0 (R22), data memory is canonical, `IMEM_LEN` is in range and
every word of `IMEM` is valid (R30). -/
def State.ArchInv (s : State) : Prop :=
  s.x[0] = 0 ∧ s.dmem.wf ∧ s.imem.length ≤ Config.maxImemLen ∧ ∀ w ∈ s.imem, validWord w = true

/-- The index of the instruction behind the one in `ID_EX`: the one in `IF_ID`, or the next to be fetched. -/
def State.behindPc (s : State) : Word :=
  match s.ifId with
  | .empty => s.pc
  | .occupied f => f.pc

/-- `IF_ID` holds the word of its index, and the fetch pc is just past it. -/
def State.IfIdInv (s : State) : Prop :=
  match s.ifId with
  | .empty => True
  | .occupied f => s.imem[f.pc.toNat]? = some f.instr ∧ s.pc = nextIndex f.pc

/-- `ID_EX` holds the decoding of the word of its index, with operands as the register file holds them; the instruction behind it
is the next one. -/
def State.IdExInv (s : State) : Prop :=
  match s.idEx with
  | .empty => True
  | .occupied d =>
    s.imem[d.pc.toNat]? = some d.instr ∧
    (∃ i, decodeWord d.instr = some i ∧ d = idCandidate { pc := d.pc, instr := d.instr } i s.x) ∧
    s.behindPc = nextIndex d.pc

/-- `EX_MEM` holds signals of the instruction of its index. -/
def State.ExMemInv (s : State) : Prop :=
  match s.exMem with
  | .empty => True
  | .occupied e =>
    s.imem[e.pc.toNat]? = some e.instr ∧
    ∃ i, decodeWord e.instr = some i ∧ e.dest = destReg i ∧ e.regWrite = (controlOf i).regWrite ∧
      e.memRead = (controlOf i).memRead ∧ e.memWrite = (controlOf i).memWrite

/-- `MEM_WB` holds signals of the instruction of its index. -/
def State.MemWbInv (s : State) : Prop :=
  match s.memWb with
  | .empty => True
  | .occupied e =>
    s.imem[e.pc.toNat]? = some e.instr ∧
    ∃ i, decodeWord e.instr = some i ∧ e.dest = destReg i ∧ e.regWrite = (controlOf i).regWrite

/-- A load is never in `EX_MEM` while an instruction that reads its destination is in `ID_EX` (R38 c, R264). -/
def State.LoadUseInv (s : State) : Prop :=
  match s.exMem, s.idEx with
  | .occupied e, .occupied d =>
    e.memRead = true → e.dest ≠ 0 → ¬(d.sig.readsRs = true ∧ d.rs = e.dest) ∧ ¬(d.sig.readsRt = true ∧ d.rt = e.dest)
  | _, _ => True

/-- The latches are consistent with instruction memory and with each other (R38). -/
def State.PipeInv (s : State) : Prop := s.IfIdInv ∧ s.IdExInv ∧ s.ExMemInv ∧ s.MemWbInv ∧ s.LoadUseInv

/-- All four latches are `Empty`. -/
def State.LatchesEmpty (s : State) : Prop := s.ifId = .empty ∧ s.idEx = .empty ∧ s.exMem = .empty ∧ s.memWb = .empty

/-- A state before its first tick (R350): latches empty, no record, `IMEM_LEN` in range and every word of `IMEM` valid (R30). The
pc, the registers and data memory are arbitrary. -/
def State.Launched (s : State) : Prop :=
  s.LatchesEmpty ∧ s.history = [] ∧ s.cycles = 0 ∧ s.imem.length ≤ Config.maxImemLen ∧ ∀ w ∈ s.imem, validWord w = true

/-! The architectural view of a pipeline state: what the sequential machine holds when the instructions past ID have completed. -/

/-- The register file once the instructions in `MEM_WB` and `EX_MEM` have completed. -/
def State.drainedRegs (s : State) : RegFile := wbStage (wbStage s.x s.memWb) (memStageLatch s.dmem s.exMem)

/-- The instructions in `MEM_WB` and `EX_MEM` completed, and the next instruction at `pc`; no latch, no record. -/
def State.drainedAt (s : State) (pc : Word) : State :=
  { State.reset with x := s.drainedRegs, dmem := memStageMemory s.dmem s.exMem, imem := s.imem, pc := pc }

/-- The sequential state once every instruction in `ID_EX`, `EX_MEM` and `MEM_WB` has completed: all of these retire (R354); the
one in `IF_ID` is still to be executed, or is squashed. -/
def State.architectural (s : State) : State :=
  match s.idEx with
  | .empty => s.drainedAt s.behindPc
  | .occupied d =>
    match decodeWord d.instr with
    | none => s.drainedAt s.behindPc
    | some i =>
      match exec i (s.drainedAt d.pc) with
      | .next t => t
      | .fault _ => s.drainedAt s.behindPc
      | .refused _ => s.drainedAt s.behindPc

/-! Counts of a run (70_reset_and_hazards.md R356). -/

/-- `S`: the number of stall ticks of the run. -/
def stallTicks (fuel : Nat) (s : State) : Nat := (runStates fuel s).countP fun u => (wires u).stall

/-- `K`: the number of taken transfers executed, that is of flush ticks of the run (R268). -/
def takenTransfers (fuel : Nat) (s : State) : Nat := (runStates fuel s).countP fun u => (wires u).flush

/-- Whether the instruction in EX in the tick that starts in `s` is a taken transfer; `none` when EX is idle. -/
def exTaken (s : State) : Option Bool :=
  match s.idEx with
  | .empty => none
  | .occupied _ => some (wires s).flush

/-- The last instruction that went through EX, and so the last that retires, is a taken transfer. -/
def lastIsTaken (fuel : Nat) (s : State) : Bool := ((runStates fuel s).filterMap exTaken).getLast? == some true

/-- The accesses MEM makes in a run, in order. -/
def runAccesses (fuel : Nat) (s : State) : List MemAccess := (runStates fuel s).filterMap tickAccess

end Sys2Proof.Machine
end

