-- ==== Sys2Proof/Certificates/Slice0/Obligations.lean ====
section
/-! DEFINITION. The statements for the provers, from the spec's numbered rules. -/

open Sys2Proof Sys2Proof.Machine

/-! Encoding -/

/-- R92, R94, R106 step 5: the word of a well-formed instruction decodes to it, with every operand. -/
def Obligations.DecodeInvertsEncode : Prop := ∀ i : Instr, i.wf = true → decodeWord (encode i) = some i

/-- R90, R94: a word has at most one meaning, and it is the encoding of that meaning; what decodes is well formed. -/
def Obligations.EncodeInvertsDecode : Prop := ∀ w i, decodeWord w = some i → i.wf = true ∧ encode i = w

/-- R96: `valid_word(w)` holds exactly when the word matches a row of the opcode map; the valid words are exactly the words that
`encode` returns, and `encode` returns a valid word for its `decode` text. -/
def Obligations.ValidWordsAreTheImageOfEncode : Prop :=
  ∀ w,
    (validWord w = true ↔ ∃ r ∈ opcodeTable, w &&& r.mask = r.pattern) ∧
    (validWord w = true ↔ ∃ line, encodeLine line = .ok w) ∧
    (validWord w = true → encodeLine (decodeText w) = .ok w)

/-- R94, R97: a word is the instruction of a row exactly when it matches the row; no word matches two rows; a word that matches no
row is no instruction. -/
def Obligations.DecoderFollowsOpcodeMap : Prop :=
  opcodeTable.length = 29 ∧
  (∀ w, ∀ r ∈ opcodeTable, w &&& r.mask = r.pattern ↔ ∃ i, decodeWord w = some i ∧ i.mnemonic = r.mnemonic) ∧
  (∀ w, ∀ r ∈ opcodeTable, ∀ q ∈ opcodeTable, w &&& r.mask = r.pattern → w &&& q.mask = q.pattern → r = q) ∧
  (∀ w, (∀ r ∈ opcodeTable, w &&& r.mask ≠ r.pattern) → decodeWord w = none)

/-- Words written out from the bit strings of R92 and the opcodes of R94, one for each format, and the instruction each stands
for. -/
def Obligations.WrittenOutWordsDecode : Prop :=
  decodeWord 0b000000_00000_00000_00000_00000_000000 = some .nop ∧
  decodeWord 0b000001_00010_00011_00001_00000_000000 = some (.add 1 2 3) ∧
  decodeWord 0b010000_00001_00001_1111111111111111 = some (.addi 1 1 0xFFFF) ∧
  decodeWord 0b010010_00101_00101_1011111011101111 = some (.ori 5 5 0xBEEF) ∧
  decodeWord 0b010101_00010_00011_00000000000_00100 = some (.slli 3 2 4) ∧
  decodeWord 0b011000_00000_00101_1101111010101101 = some (.lui 5 0xDEAD) ∧
  decodeWord 0b100000_00000_00001_0000000000000000 = some (.load 1 0 0) ∧
  decodeWord 0b100001_00011_00010_1111111111111111 = some (.store 2 3 0xFFFF) ∧
  decodeWord 0b110001_00001_00000_1111111111111110 = some (.bne 1 0 0xFFFE) ∧
  decodeWord 0b111001_00000000000000000000000101 = some (.jal 5) ∧
  decodeWord 0b111010_11111_000000000000000000000 = some (.jr 31)

/-- R95, R213, R266: the registers the hazard unit sees a word read are the source operands of its instruction. -/
def Obligations.WordReadsItsSourceOperands : Prop :=
  ∀ i r, i.wf = true → (wordReads (encode i) r = true ↔ r ∈ sourceRegs i)

/-! One step of the sequential machine -/

/-- R303: when the word at the pc decodes to an instruction, a step is that instruction. The model's own: that a sequential step on a
reserved word is the fault that R323 gives ID in the pipeline (log 7), and that a step at `pc >= IMEM_LEN` answers the same state
(log 2). -/
def Obligations.StepRunsTheDecodedInstruction : Prop :=
  ∀ s,
    (∀ w i, s.fetch = some w → decodeWord w = some i → step s = exec i s) ∧
    (∀ w, s.fetch = some w → decodeWord w = none → step s = .fault (.reservedInstruction s.pc w)) ∧
    (s.imemLen ≤ s.pc.toNat → step s = .next s)

/-- A word placed for fetching is the next instruction run, and placing it changes no other word of instruction memory and no other
part of the state (log 6). -/
def Obligations.PlacedWordRunsNext : Prop :=
  ∀ (s : State) (w : Word) (i : Instr), decodeWord w = some i →
    let t := s.withFetchWord 32 w.toNat
    step t = exec i t ∧
    (∀ k, k ≠ s.pc.toNat → k < s.imemLen → t.imem[k]? = s.imem[k]?) ∧
    { t with imem := s.imem } = s

/-! Instructions at the sequential level: word, control row, effect and frame -/

/-- R141: NOP is the word 0 and no other; it only moves the pc on; it reads and writes nothing, never stalls, never causes a stall,
is never a forwarding source, and is a genuine instruction in every stage. -/
def Obligations.NopOnlyAdvances : Prop :=
  (∀ w, decodeWord w = some .nop ↔ w = 0) ∧ encode .nop = 0 ∧ (∀ w, opcodeOf w = 0 → w ≠ 0 → decodeWord w = none) ∧
  controlOf .nop = { readsRs := false, readsRt := false, regWrite := false, memRead := false, memWrite := false,
                     aluBImm := false, aluOp := .NONE, ctl := .NONE } ∧
  destReg .nop = 0 ∧
  (∀ s, RunsToPc .nop s (s.pc + 1)) ∧
  (∀ l pc, loadUse l (.occupied { pc := pc, instr := 0 }) = false) ∧
  (∀ f x l, loadUse (.occupied (idCandidate f .nop x)) l = false) ∧
  (∀ f x a b r, exMemWrites (.occupied (exPublish (idCandidate f .nop x) a b)) r = false) ∧
  (∀ m f x a b r, memWbWrites (memStageLatch m (.occupied (exPublish (idCandidate f .nop x) a b))) r = false) ∧
  (∀ s t, tick s = .next t → (wires s).flush = false → (wires s).stall = false → s.fetch = some 0 →
    t.ifId = .occupied { pc := s.pc, instr := 0 } ∧ (tickRecord s).atIF.genuine = true) ∧
  (∀ s t f, tick s = .next t → s.ifId = .occupied f → f.instr = 0 → (wires s).flush = false →
    t.idEx = .occupied (idCandidate f .nop t.x) ∧ (tickRecord s).atID.genuine = true) ∧
  (∀ s t d, tick s = .next t → s.idEx = .occupied d → d.instr = 0 →
    (∃ e, t.exMem = .occupied e ∧ e.pc = d.pc ∧ e.instr = 0) ∧ (tickRecord s).atEX.genuine = true) ∧
  (∀ s t e, tick s = .next t → s.exMem = .occupied e → e.instr = 0 →
    (∃ m, t.memWb = .occupied m ∧ m.pc = e.pc ∧ m.instr = 0) ∧ (tickRecord s).atMEM.genuine = true) ∧
  (∀ s e, s.memWb = .occupied e → e.instr = 0 → (tickRecord s).atWB.genuine = true)

/-- R142 to R151: the register-register instructions, each with its opcode, its ALU operation and its function, computed in the
integers and reduced. -/
def Obligations.RegisterAluInstructions : Prop :=
  RegisterRule .add 0x01 .ADD (fun a b => mask32 (a.toNat + b.toNat)) ∧
  RegisterRule .sub 0x02 .SUB (fun a b => mask32 (a.toNat - b.toNat)) ∧
  RegisterRule .and 0x03 .AND (fun a b => a &&& b) ∧
  RegisterRule .or 0x04 .OR (fun a b => a ||| b) ∧
  RegisterRule .xor 0x05 .XOR (fun a b => a ^^^ b) ∧
  RegisterRule .slt 0x06 .SLT (fun a b => if signed a < signed b then 1 else 0) ∧
  RegisterRule .sltu 0x07 .SLTU (fun a b => if a.toNat < b.toNat then 1 else 0) ∧
  RegisterRule .sll 0x08 .SLL (fun a b => mask32 (a.toNat * 2 ^ (b.toNat % 32))) ∧
  RegisterRule .srl 0x09 .SRL (fun a b => mask32 (a.toNat / 2 ^ (b.toNat % 32))) ∧
  RegisterRule .sra 0x0A .SRA (fun a b => mask32 (signed a / 2 ^ (b.toNat % 32)))

/-- R161 to R168: the register-immediate instructions, each with its opcode, its assembler range, its ALU operation, its extension
and its function. The amounts of the shifts are 0 to 31, and a shift word with a non-zero bit in 15:5 is reserved and
no line encodes to it. -/
def Obligations.ImmediateAluInstructions : Prop :=
  ImmediateRule .addi 0x10 (-32768) 32767 (fun _ => True) .ADD (fun v => mask32 v.toInt)
    (fun a v => mask32 (a.toNat + v.toInt)) ∧
  ImmediateRule .andi 0x11 0 65535 (fun _ => True) .AND (fun v => mask32 v.toNat) (fun a v => a &&& mask32 v.toNat) ∧
  ImmediateRule .ori 0x12 0 65535 (fun _ => True) .OR (fun v => mask32 v.toNat) (fun a v => a ||| mask32 v.toNat) ∧
  ImmediateRule .xori 0x13 0 65535 (fun _ => True) .XOR (fun v => mask32 v.toNat) (fun a v => a ^^^ mask32 v.toNat) ∧
  ImmediateRule .slti 0x14 (-32768) 32767 (fun _ => True) .SLT (fun v => mask32 v.toInt)
    (fun a v => if signed a < v.toInt then 1 else 0) ∧
  ImmediateRule .slli 0x15 0 31 (fun v => v.toNat < 32) .SLL (fun v => mask32 v.toNat)
    (fun a v => mask32 (a.toNat * 2 ^ v.toNat)) ∧
  ImmediateRule .srli 0x16 0 31 (fun v => v.toNat < 32) .SRL (fun v => mask32 v.toNat)
    (fun a v => mask32 (a.toNat / 2 ^ v.toNat)) ∧
  ImmediateRule .srai 0x17 0 31 (fun v => v.toNat < 32) .SRA (fun v => mask32 v.toNat)
    (fun a v => mask32 (signed a / 2 ^ v.toNat)) ∧
  ∀ w, opcodeOf w = 0x15 ∨ opcodeOf w = 0x16 ∨ opcodeOf w = 0x17 → 32 ≤ (immOf w).toNat →
    decodeWord w = none ∧ ∀ line, encodeLine line ≠ .ok w

/-- R169: LUI puts the immediate in bits 31:16; it reads no register and never stalls; a word of its opcode with non-zero bits 25:21
is reserved. -/
def Obligations.LoadUpperImmediate : Prop :=
  (∀ (rt : RegIx) (imm : Imm16) (s : State),
    encode (.lui rt imm) = (0x18 : BitVec 6) ++ (0 : BitVec 5) ++ rt ++ imm ∧
    decodeWord ((0x18 : BitVec 6) ++ (0 : BitVec 5) ++ rt ++ imm) = some (.lui rt imm) ∧
    controlOf (.lui rt imm) = { readsRs := false, readsRt := false, regWrite := true, memRead := false, memWrite := false,
                                aluBImm := true, aluOp := .LUI, ctl := .NONE } ∧
    destReg (.lui rt imm) = rt ∧
    RunsToRegister (.lui rt imm) s rt (imm ++ (0 : BitVec 16)) ∧
    imm ++ (0 : BitVec 16) = mask32 (imm.toNat * 2 ^ 16) ∧
    immediateOf (.lui rt imm) = mask32 imm.toNat ∧
    (∀ a pc, alu .LUI a (mask32 imm.toNat) pc = imm ++ (0 : BitVec 16)) ∧
    (findTemplate (Instr.lui rt imm).mnemonic.toList).map Template.shapes = some [.register, .integer 0 65535] ∧
    ∀ l pc, loadUse l (.occupied { pc := pc, instr := encode (.lui rt imm) }) = false) ∧
  ∀ w, opcodeOf w = 0x18 → rsOf w ≠ 0 → decodeWord w = none

/-- R180, R181, R213: LOAD, with its control row, puts the whole cell of the effective address into its destination and changes
nothing else; the base is read first, and a load to register 0 changes the pc only. -/
def Obligations.LoadReadsOneCell : Prop :=
  ∀ rt rs imm s,
    encode (.load rt rs imm) = (0x20 : BitVec 6) ++ rs ++ rt ++ imm ∧
    decodeWord ((0x20 : BitVec 6) ++ rs ++ rt ++ imm) = some (.load rt rs imm) ∧
    controlOf (.load rt rs imm) = { readsRs := true, readsRt := false, regWrite := true, memRead := true, memWrite := false,
                                    aluBImm := true, aluOp := .ADD, ctl := .NONE } ∧
    destReg (.load rt rs imm) = rt ∧ immediateOf (.load rt rs imm) = mask32 imm.toInt ∧
    s.dataAddress rs imm = mask32 ((s.readReg rs).toNat + imm.toInt) ∧
    RunsToRegister (.load rt rs imm) s rt
      (s.dmem.readCell ((mask32 ((s.readReg rs).toNat + imm.toInt)).toNat % 2 ^ s.dmem.sizeLog2.val))

/-- R180, R182, R213: STORE, with its control row, writes the whole register to the cell of the effective address; every data
address that names another cell reads as before; no register changes. In a canonical memory. -/
def Obligations.StoreWritesOneCell : Prop :=
  ∀ rt rs imm s, s.dmem.wf →
    encode (.store rt rs imm) = (0x21 : BitVec 6) ++ rs ++ rt ++ imm ∧
    decodeWord ((0x21 : BitVec 6) ++ rs ++ rt ++ imm) = some (.store rt rs imm) ∧
    controlOf (.store rt rs imm) = { readsRs := true, readsRt := true, regWrite := false, memRead := false, memWrite := true,
                                     aluBImm := true, aluOp := .ADD, ctl := .NONE } ∧
    destReg (.store rt rs imm) = 0 ∧ immediateOf (.store rt rs imm) = mask32 imm.toInt ∧
    s.dataAddress rs imm = mask32 ((s.readReg rs).toNat + imm.toInt) ∧
    ∃ t, exec (.store rt rs imm) s = .next t ∧ StoresWord s t (s.dataAddress rs imm) (s.readReg rt) ∧
      KeepsRegisters s t ∧ t.pc = s.pc + 1 ∧ KeepsPipeline s t

/-- R191 to R194: the conditional branches, relative to the branch itself, with exact comparisons; BGE is taken exactly when BLT is
not; nothing but the pc changes. -/
def Obligations.ConditionalBranches : Prop :=
  BranchRule .beq 0x30 .BEQ (fun a b => a = b) ∧
  BranchRule .bne 0x31 .BNE (fun a b => a ≠ b) ∧
  BranchRule .blt 0x32 .BLT (fun a b => signed a < signed b) ∧
  BranchRule .bge 0x33 .BGE (fun a b => signed a ≥ signed b)

/-- R195, R196, R197: J and JAL jump to the 26-bit index, JAL links `pc + 1` through register 31, JR jumps to the whole register. -/
def Obligations.Jumps : Prop :=
  (∀ (target : Target26) (s : State),
    encode (.j target) = (0x38 : BitVec 6) ++ target ∧ decodeWord ((0x38 : BitVec 6) ++ target) = some (.j target) ∧
    controlOf (.j target) = { Control.idle with ctl := .J } ∧ destReg (.j target) = 0 ∧
    jumpTargetOf (.j target) = mask32 target.toNat ∧ RunsToPc (.j target) s (mask32 target.toNat)) ∧
  (∀ (target : Target26) (s : State),
    encode (.jal target) = (0x39 : BitVec 6) ++ target ∧ decodeWord ((0x39 : BitVec 6) ++ target) = some (.jal target) ∧
    controlOf (.jal target) = { Control.idle with regWrite := true, aluOp := .LINK, ctl := .J } ∧ destReg (.jal target) = 31 ∧
    jumpTargetOf (.jal target) = mask32 target.toNat ∧ RunsToLinkAndPc (.jal target) s (mask32 target.toNat)) ∧
  (∀ (rs : RegIx) (s : State),
    encode (.jr rs) = (0x3A : BitVec 6) ++ rs ++ (0 : BitVec 21) ∧
    decodeWord ((0x3A : BitVec 6) ++ rs ++ (0 : BitVec 21)) = some (.jr rs) ∧
    controlOf (.jr rs) = { Control.idle with readsRs := true, ctl := .JR } ∧ destReg (.jr rs) = 0 ∧
    RunsToPc (.jr rs) s (s.readReg rs))

/-- R320, R23, R26: every instruction completes in every state; it changes no register but the destination its control row names,
and neither instruction memory nor a latch nor a record. -/
def Obligations.EveryInstructionCompletesWithinItsDestination : Prop :=
  ∀ i s, ∃ t, exec i s = .next t ∧ KeepsPipeline s t ∧
    ∀ r, t.readReg r ≠ s.readReg r → (controlOf i).regWrite = true ∧ r = destReg i ∧ r ≠ 0

/-- R60, R69: no instruction but STORE changes data memory, and no instruction changes its size. -/
def Obligations.OnlyStoreChangesDataMemory : Prop :=
  ∀ i s, ∃ t, exec i s = .next t ∧ t.dmem.sizeLog2 = s.dmem.sizeLog2 ∧
    ((controlOf i).memWrite = false → t.dmem = s.dmem) ∧
    ((controlOf i).memWrite = true ↔ ∃ rt rs imm, i = .store rt rs imm)

/-- R95, R213: an instruction's effect depends on no register but its source operands: with other contents elsewhere, the pc, data
memory and the destination come out the same. -/
def Obligations.EffectDependsOnSourceOperandsOnly : Prop :=
  ∀ i s y, (∀ r ∈ sourceRegs i, RegFile.read y r = s.readReg r) →
    ∃ t u, exec i s = .next t ∧ exec i { s with x := y } = .next u ∧ u.pc = t.pc ∧ u.dmem = t.dmem ∧
      ((controlOf i).regWrite = true → u.readReg (destReg i) = t.readReg (destReg i))

/-! Registers and data memory -/

/-- R22: register 0 reads 0 on either port; a write to it changes no state; slot 0 stays 0 in the snapshot; it is never forwarded
and never stalls. -/
def Obligations.RegisterZeroIsWiredToZero : Prop :=
  (∀ s : State, s.readReg 0 = 0) ∧
  (∀ f i x, (rsOf f.instr = 0 → (idCandidate f i x).a = 0) ∧ (rtOf f.instr = 0 → (idCandidate f i x).b = 0)) ∧
  (∀ (s : State) (v : Word), s.writeReg 0 v = s) ∧
  (∀ s t, tick s = .next t → s.x[0] = 0 → (snapshot t).x[0] = 0) ∧
  (∀ i s t, exec i s = .next t → s.x[0] = 0 → (snapshot t).x[0] = 0) ∧
  (∀ em mw reads, forwardSelect em mw 0 reads = .REG) ∧
  (∀ d l, d.dest = 0 → loadUse (.occupied d) l = false)

/-- R61, R62: a data address selects the cell `addr mod DMEM_WORDS`, the low bits of the address, and the address `DMEM_WORDS`
further names the same cell; a write sets that cell and changes no other. -/
def Obligations.MemoryReadAfterWrite : Prop :=
  ∀ (m : Memory) (a b v : Word), m.wf →
    m.cellOf a = a.toNat % 2 ^ m.sizeLog2.val ∧
    m.cellOf (a + BitVec.ofNat 32 (2 ^ m.sizeLog2.val)) = m.cellOf a ∧
    m.read a = m.readCell (a.toNat % 2 ^ m.sizeLog2.val) ∧
    (m.write a v).read b = (if a.toNat % 2 ^ m.sizeLog2.val = b.toNat % 2 ^ m.sizeLog2.val then v else m.read b)

/-- The model's memory form (log 4): canonical memories of one size that read the same at every address are equal data. -/
def Obligations.CanonicalMemoryIsDeterminedByItsReads : Prop :=
  ∀ m q : Memory, m.wf → q.wf → m.sizeLog2 = q.sizeLog2 → (∀ addr, m.read addr = q.read addr) → m = q

/-! Reset and invariants -/

/-- R41, R350: reset with launch parameters: latches empty, pc 0, `x[0] = 0`, `x[i] = REG_INIT[i]`, `DMEM[j] = DMEM_INIT[j]`, no
record, no cycle. That `DMEM_INIT` is a list of the first cells, and that the cells past its end hold 0, is the model's choice (log 5). -/
def Obligations.LaunchFollowsItsParameters : Prop :=
  ∀ imem sizeLog2 regInit dmemInit,
    let s := State.launch imem sizeLog2 regInit dmemInit
    s.LatchesEmpty ∧ s.pc = 0 ∧ s.imem = imem ∧ s.history = [] ∧ s.cycles = 0 ∧
    s.dmem.sizeLog2 = sizeLog2 ∧ s.readReg 0 = 0 ∧ s.x[0] = 0 ∧
    (∀ r : RegIx, r ≠ 0 → s.readReg r = regInit[r.toNat]'r.isLt) ∧
    (∀ j, j < 2 ^ sizeLog2.val → s.dmem.readCell j = (dmemInit[j]?).getD 0) ∧
    (∀ r, (State.launch imem sizeLog2 Config.defaultRegInit dmemInit).readReg r = 0)

/-- The reset state meets both invariants and is a launch with the defaults (log 3, log 5). -/
def Obligations.ResetMeetsTheInvariants : Prop :=
  State.reset.ArchInv ∧ State.reset.PipeInv ∧ State.reset.Launched ∧
    State.reset = State.launch [] Config.defaultDmemSizeLog2 Config.defaultRegInit []

/-- R30, R41: a launch of a program of valid words of legal length meets both invariants. -/
def Obligations.LaunchMeetsTheInvariants : Prop :=
  ∀ imem sizeLog2 regInit dmemInit, imem.length ≤ Config.maxImemLen → (∀ w ∈ imem, validWord w = true) →
    (State.launch imem sizeLog2 regInit dmemInit).ArchInv ∧ (State.launch imem sizeLog2 regInit dmemInit).PipeInv ∧
      (State.launch imem sizeLog2 regInit dmemInit).Launched

/-- R22, R30, R31, R73: a sequential step keeps the architectural invariant, and never faults under it. That it answers a next state
also at `pc >= IMEM_LEN`, where the sequential machine of R303 has halted, is the model's choice (log 2). -/
def Obligations.StepKeepsTheArchitecturalInvariant : Prop :=
  ∀ s, s.ArchInv → ∃ t, step s = .next t ∧ t.ArchInv ∧ t.imem = s.imem

/-- R38, R264: a tick keeps the architectural invariant and the consistency of the latches, and never faults under them (R320). -/
def Obligations.TickKeepsTheMachineInvariant : Prop :=
  ∀ s, s.ArchInv → s.PipeInv → ∃ t, tick s = .next t ∧ t.ArchInv ∧ t.PipeInv ∧ t.imem = s.imem

/-! The stages and the units -/

/-- R211: the four cases of the fetch unit, in their priority. -/
def Obligations.FetchUnitHasFourCases : Prop :=
  ∀ s t, tick s = .next t →
    (∀ target, (wires s).redirect = some target → t.ifId = .empty ∧ t.pc = target) ∧
    ((wires s).redirect = none → (wires s).stall = true → t.ifId = s.ifId ∧ t.pc = s.pc) ∧
    ((wires s).redirect = none → (wires s).stall = false → s.pc.toNat < s.imemLen →
      ∃ w, s.imem[s.pc.toNat]? = some w ∧ t.ifId = .occupied { pc := s.pc, instr := w } ∧ t.pc = mask32 (s.pc.toNat + 1)) ∧
    ((wires s).redirect = none → (wires s).stall = false → s.imemLen ≤ s.pc.toNat → t.ifId = .empty ∧ t.pc = s.pc)

/-- R215: ID reads both ports from the register file as WB leaves it in the same tick. -/
def Obligations.RegisterReadSeesSameTickWriteBack : Prop :=
  ∀ s t f, tick s = .next t → s.ifId = .occupied f → (wires s).flush = false → (wires s).stall = false →
    let xAfterWb := fun r : RegIx =>
      match s.memWb with
      | .occupied e => if e.regWrite = true ∧ e.dest = r ∧ r ≠ 0 then e.result else s.readReg r
      | .empty => s.readReg r
    ∃ d, t.idEx = .occupied d ∧ d.pc = f.pc ∧ d.instr = f.instr ∧
      d.a = xAfterWb (f.instr.extractLsb' 21 5) ∧ d.b = xAfterWb (f.instr.extractLsb' 16 5) ∧
      (f.instr.extractLsb' 21 5 = (0 : RegIx) → d.a = 0) ∧ (f.instr.extractLsb' 16 5 = (0 : RegIx) → d.b = 0)

/-- R218: the ALU table, computed in the integers and reduced. -/
def Obligations.AluTable : Prop :=
  ∀ a b pc : Word,
    alu .ADD a b pc = mask32 (a.toNat + b.toNat) ∧
    alu .SUB a b pc = mask32 (a.toNat - b.toNat) ∧
    alu .AND a b pc = a &&& b ∧
    alu .OR a b pc = a ||| b ∧
    alu .XOR a b pc = a ^^^ b ∧
    alu .SLT a b pc = (if signed a < signed b then 1 else 0) ∧
    alu .SLTU a b pc = (if a.toNat < b.toNat then 1 else 0) ∧
    alu .SLL a b pc = mask32 (a.toNat * 2 ^ (b.toNat % 32)) ∧
    alu .SRL a b pc = mask32 (a.toNat / 2 ^ (b.toNat % 32)) ∧
    alu .SRA a b pc = mask32 (signed a / 2 ^ (b.toNat % 32)) ∧
    alu .LUI a b pc = mask32 (b.toNat * 2 ^ 16) ∧
    alu .LINK a b pc = mask32 (pc.toNat + 1) ∧
    alu .NONE a b pc = 0

/-- R219: the resolution of control transfers in EX, by kind, on the forwarded operands; an empty ID/EX redirects nothing. -/
def Obligations.TransferResolution : Prop :=
  ∀ (d : IdEx) (a b : Word),
    let sum := mask32 (d.pc.toNat + d.imm.toNat)
    (d.sig.ctl = .NONE → exRedirect d a b = none) ∧
    (d.sig.ctl = .BEQ → exRedirect d a b = if a = b then some sum else none) ∧
    (d.sig.ctl = .BNE → exRedirect d a b = if a ≠ b then some sum else none) ∧
    (d.sig.ctl = .BLT → exRedirect d a b = if signed a < signed b then some sum else none) ∧
    (d.sig.ctl = .BGE → exRedirect d a b = if signed a ≥ signed b then some sum else none) ∧
    (d.sig.ctl = .J → exRedirect d a b = some d.jtarget) ∧
    (d.sig.ctl = .JR → exRedirect d a b = some a) ∧
    (∀ s, s.idEx = .empty → (wires s).redirect = none) ∧
    (∀ s, s.idEx = .occupied d →
      (wires s).redirect = exRedirect d (operandMux (wires s).fwdA d.a s.exMem s.memWb) (operandMux (wires s).fwdB d.b s.exMem s.memWb))

/-- R217, R220: what EX publishes, whatever the wires of the tick: the fields of ID/EX, the ALU result on the forwarded operands, and the
forwarded B as store data; nothing from an empty ID/EX. EX changes no architectural state: registers and data memory after the tick are
what WB and MEM make of them. -/
def Obligations.ExecuteStagePublishes : Prop :=
  ∀ s t, tick s = .next t →
    (s.idEx = .empty → t.exMem = .empty) ∧ (∀ d, s.idEx = .occupied d → PublishesFrom s t d) ∧
    t.x = wbStage s.x s.memWb ∧ t.dmem = memStageMemory s.dmem s.exMem

/-- R221: MEM loads, stores or passes the ALU result on, and touches at most one cell. In a canonical memory. -/
def Obligations.MemoryStageAccess : Prop :=
  ∀ s t, tick s = .next t → s.dmem.wf →
    (s.exMem = .empty → t.memWb = .empty ∧ t.dmem = s.dmem) ∧
    ∀ e, s.exMem = .occupied e →
      let cell := e.aluResult.toNat % 2 ^ s.dmem.sizeLog2.val
      t.memWb = .occupied { pc := e.pc, instr := e.instr, dest := e.dest, regWrite := e.regWrite,
                            result := if e.memRead then s.dmem.readCell cell else e.aluResult } ∧
      (∀ k, t.dmem.readCell k = if e.memWrite = true ∧ k = cell then e.storeData else s.dmem.readCell k) ∧
      (e.memWrite = false → t.dmem = s.dmem) ∧ ∀ i, ¬((controlOf i).memRead = true ∧ (controlOf i).memWrite = true)

/-- R222: the write-back arbiter: one register at most, never register 0, and no other agent writes a register in a tick. -/
def Obligations.WriteBackArbiter : Prop :=
  ∀ s t, tick s = .next t →
    (s.memWb = .empty → KeepsRegisters s t) ∧
    ∀ e, s.memWb = .occupied e →
      (e.regWrite = true → WritesRegister s t e.dest e.result) ∧ (e.regWrite = false → KeepsRegisters s t)

/-- R223: a stage with an empty input latch changes nothing, publishes `Empty` and records itself idle. -/
def Obligations.EmptyInputsDoNothing : Prop :=
  ∀ s t, tick s = .next t →
    (s.memWb = .empty → KeepsRegisters s t ∧ (tickRecord s).atWB = idleRecord) ∧
    (s.exMem = .empty → t.memWb = .empty ∧ t.dmem = s.dmem ∧ (tickRecord s).atMEM = idleRecord) ∧
    (s.idEx = .empty → t.exMem = .empty ∧ (wires s).redirect = none ∧ (tickRecord s).atEX = idleRecord) ∧
    (s.ifId = .empty → t.idEx = .empty ∧ (tickRecord s).atID = idleRecord) ∧
    (s.imemLen ≤ s.pc.toNat → (wires s).stall = false → t.ifId = .empty ∧ (tickRecord s).atIF = idleRecord)

/-- R262, R263: with two producers in flight the value of EX/MEM is used; register 0 always reads from the register file, as 0. -/
def Obligations.ForwardingPriorityAndZero : Prop :=
  (∀ (e : ExMem) (m : MemWb) (r : RegIx) (v : Word), e.regWrite = true → e.dest = r → m.regWrite = true → m.dest = r → r ≠ 0 →
    forwardSelect (.occupied e) (.occupied m) r true = .EXMEM ∧
    operandMux (forwardSelect (.occupied e) (.occupied m) r true) v (.occupied e) (.occupied m) = e.aluResult) ∧
  (∀ em mw reads x, forwardSelect em mw 0 reads = .REG ∧
    operandMux (forwardSelect em mw 0 reads) (RegFile.read x 0) em mw = 0)

/-- R271, R264: whatever the distance, an operand that the instruction in EX uses is, after forwarding, the value the register has
once the instructions ahead of it have completed; and a load is never selected from EX/MEM. -/
def Obligations.ForwardingDeliversTheProgramOrderValue : Prop :=
  ∀ s d, s.PipeInv → s.idEx = .occupied d →
    (d.sig.readsRs = true → operandMux (wires s).fwdA d.a s.exMem s.memWb = RegFile.read s.drainedRegs d.rs) ∧
    (d.sig.readsRt = true → operandMux (wires s).fwdB d.b s.exMem s.memWb = RegFile.read s.drainedRegs d.rt) ∧
    ((wires s).fwdA = .EXMEM ∨ (wires s).fwdB = .EXMEM → ∃ e, s.exMem = .occupied e ∧ e.memRead = false)

/-- R266: the stall condition, as the rule writes it; and in a consistent pipeline it is load-use: a load of a register other than
0 in EX, and a source operand of the instruction in ID is that register. -/
def Obligations.StallConditionIsLoadUse : Prop :=
  (∀ s, (wires s).stall = true ↔
    (wires s).flush = false ∧ ∃ d f i, s.idEx = .occupied d ∧ s.ifId = .occupied f ∧ decodeWord f.instr = some i ∧
      d.sig.memRead = true ∧ d.dest ≠ 0 ∧
      (((controlOf i).readsRs = true ∧ f.instr.extractLsb' 21 5 = d.dest) ∨
        ((controlOf i).readsRt = true ∧ f.instr.extractLsb' 16 5 = d.dest))) ∧
  ∀ s d pc i, s.PipeInv → s.idEx = .occupied d → s.ifId = .occupied { pc := pc, instr := encode i } → i.wf = true →
    ((wires s).stall = true ↔ d.sig.memRead = true ∧ d.dest ≠ 0 ∧ d.dest ∈ sourceRegs i)

/-- R267: a stall holds IF/ID and the pc, puts a bubble into ID/EX and lets the load go on; it lasts one tick; then the consumer is
decoded again and takes the loaded word from MEM/WB. -/
def Obligations.StallLastsOneTick : Prop :=
  ∀ s t d f, s.PipeInv → tick s = .next t → (wires s).stall = true → s.idEx = .occupied d → s.ifId = .occupied f →
    t.idEx = .empty ∧ t.ifId = s.ifId ∧ t.pc = s.pc ∧
    (tickRecord s).atID.genuine = false ∧ (tickRecord s).atIF = idleRecord ∧
    t.x = wbStage s.x s.memWb ∧ t.dmem = memStageMemory s.dmem s.exMem ∧ t.memWb = memStageLatch s.dmem s.exMem ∧
    ∃ e, t.exMem = .occupied e ∧ e.pc = d.pc ∧ e.dest = d.dest ∧ e.memRead = true ∧
      (wires t).stall = false ∧ (wires t).flush = false ∧
      ∀ u, tick t = .next u → ∃ c m, u.idEx = .occupied c ∧ c.pc = f.pc ∧ c.instr = f.instr ∧
        u.memWb = .occupied m ∧ m.pc = d.pc ∧ m.result = t.memRead e.aluResult ∧
        (c.sig.readsRs = true → c.rs = d.dest →
          (wires u).fwdA = .MEMWB ∧ operandMux (wires u).fwdA c.a u.exMem u.memWb = t.memRead e.aluResult) ∧
        (c.sig.readsRt = true → c.rt = d.dest →
          (wires u).fwdB = .MEMWB ∧ operandMux (wires u).fwdB c.b u.exMem u.memWb = t.memRead e.aluResult)

/-- R268, R269: a redirect is a flush: both younger slots are emptied, the pc becomes the target, the transfer itself is published to
EX/MEM as R220 says of any instruction (with JAL's link write), and the next tick fetches at the target. -/
def Obligations.FlushDiscardsTheTwoYoungerSlots : Prop :=
  ∀ s t target, tick s = .next t → (wires s).redirect = some target →
    (wires s).flush = true ∧ t.idEx = .empty ∧ t.ifId = .empty ∧ t.pc = target ∧
    t.x = wbStage s.x s.memWb ∧ t.dmem = memStageMemory s.dmem s.exMem ∧
    (∃ d, s.idEx = .occupied d ∧ PublishesFrom s t d) ∧
    (tickRecord s).atID.genuine = false ∧ (tickRecord s).atIF = idleRecord ∧
    ∃ u, tick t = .next u ∧
      (∀ w, t.imem[target.toNat]? = some w → u.ifId = .occupied { pc := target, instr := w }) ∧
      (t.imemLen ≤ target.toNat → u.ifId = .empty ∧ u.pc = target)

/-- R270: stall and flush never coincide, and with consistent latches the load-use condition alone rules a flush out. -/
def Obligations.StallAndFlushNeverCoincide : Prop :=
  (∀ s, ¬((wires s).stall = true ∧ (wires s).flush = true)) ∧
  (∀ s d, s.PipeInv → s.idEx = .occupied d → d.sig.memRead = true → d.sig.ctl = .NONE ∧ (wires s).flush = false)

/-- R294: the activity records of a tick; `history` and `cycles` grow by one. -/
def Obligations.ActivityRecordsOfATick : Prop :=
  ∀ s t, tick s = .next t → ∃ r, t.history = s.history ++ [r] ∧ t.cycles = s.cycles + 1 ∧
    (∀ e, s.memWb = .occupied e → r.atWB = { pc := some e.pc, instr := e.instr, genuine := true }) ∧
    (∀ e, s.exMem = .occupied e → r.atMEM = { pc := some e.pc, instr := e.instr, genuine := true }) ∧
    (∀ d, s.idEx = .occupied d → r.atEX = { pc := some d.pc, instr := d.instr, genuine := true }) ∧
    (∀ f, s.ifId = .occupied f →
      r.atID = { pc := some f.pc, instr := f.instr, genuine := !((wires s).stall || (wires s).flush) }) ∧
    (∀ w, (wires s).flush = false → (wires s).stall = false → s.imem[s.pc.toNat]? = some w →
      r.atIF = { pc := some s.pc, instr := w, genuine := true }) ∧
    (s.memWb = .empty → r.atWB = { pc := none, instr := 0, genuine := false }) ∧
    (s.exMem = .empty → r.atMEM = { pc := none, instr := 0, genuine := false }) ∧
    (s.idEx = .empty → r.atEX = { pc := none, instr := 0, genuine := false }) ∧
    (s.ifId = .empty → r.atID = { pc := none, instr := 0, genuine := false }) ∧
    ((wires s).flush = true ∨ (wires s).stall = true ∨ s.imemLen ≤ s.pc.toNat →
      r.atIF = { pc := none, instr := 0, genuine := false })

/-- R323, R97: a tick faults exactly on a reserved word in IF/ID, in a flush or stall tick too, and `decode` calls the word unknown. -/
def Obligations.ReservedWordInDecoderFaults : Prop :=
  ∀ s,
    (∀ reason, tick s = .fault reason ↔
      ∃ f, s.ifId = .occupied f ∧ validWord f.instr = false ∧ reason = .reservedInstruction f.pc f.instr) ∧
    (∀ w, validWord w = false ↔ decodeText w = ['u', 'n', 'k', 'n', 'o', 'w', 'n']) ∧
    (∀ lines ws, loadProgram lines = .ok ws → ∀ w ∈ ws, validWord w = true)

/-- R293, R40: the masking pass changes nothing. -/
def Obligations.RemaskingChangesNothing : Prop := ∀ s, remask s = s

/-- R290, R291: the tick in the source's call order and the order-free tick are the same function. Which values the called units read
is the model's reading (log 13): EX the selections and latches that the forwarding unit captured, the hazard unit the load in `EX_MEM'`,
the activity records the start of the tick. -/
def Obligations.CallOrderAgreesWithOrderFreeTick : Prop := ∀ s, tickOrdered s = tick s

/-! Runs -/

/-- R295, 90_conflicts.md C3: the tick after which the run ends is the one that starts with the pc past the end and IF/ID, ID/EX and
EX/MEM empty; a stall or a flush tick never ends a run. -/
def Obligations.TerminationTestReadsDrainedStages : Prop :=
  ∀ s t, tick s = .next t →
    (t.busy = false ↔ s.imemLen ≤ s.pc.toNat ∧ s.ifId = .empty ∧ s.idEx = .empty ∧ s.exMem = .empty) ∧
    ((wires s).stall = true ∨ (wires s).flush = true → t.busy = true)

/-- R297: at the end of a run the pc is at or beyond `IMEM_LEN` and all four latches are `Empty`. -/
def Obligations.FinishedRunIsDrained : Prop :=
  ∀ fuel s t, run fuel s = .finished t → t.LatchesEmpty ∧ t.imemLen ≤ t.pc.toNat ∧ t.imem = s.imem

/-- R296, R351: the empty program runs exactly one tick and changes no register and no cell. -/
def Obligations.EmptyProgramRunsOneTick : Prop :=
  ∀ sizeLog2 regInit dmemInit fuel,
    let s := State.launch [] sizeLog2 regInit dmemInit
    ∃ t, run (fuel + 1) s = .finished t ∧ t.cycles = 1 ∧ t.pc = 0 ∧ t.x = s.x ∧ t.dmem = s.dmem

/-- R300, R295: the flag and the decisions never enter a tick. A silent run takes no decision; a driver that is not silent takes
exactly one after each tick, the last one included, and with a decision other than quit for each tick it makes the same run; a quit
ends the run with the state of the tick before it and leads to the summary. That a driver without a decision waits is the model's form
(log 11). -/
def Obligations.PausingOnlyTruncatesARun : Prop :=
  (∀ fuel ds s, runHosted true fuel ds s = run fuel s) ∧
  (∀ fuel ds s, Decision.quit ∉ ds → fuel ≤ ds.length → runHosted false fuel ds s = run fuel s) ∧
  (∀ fuel ds s u t, Decision.quit ∉ ds → ds.length < fuel → run ds.length s = .running u → tick u = .next t →
    runHosted false fuel ds s = .paused t ∧
    ∀ rest, runHosted false fuel (ds ++ .quit :: rest) s = .quit t ∧
      (runHosted false fuel (ds ++ .quit :: rest) s).summary = some (report t)) ∧
  (∀ fuel s t, run fuel s = .finished t → (run fuel s).summary = some (report t))

/-- R42, R299: the host's snapshot after a tick shows all state: states with equal snapshots are equal; it has the `pc` of each occupied
latch and the records of that tick. A program cannot see the latches, the records or the cycle count: with others in their place, and
another instruction memory, an instruction leaves the same registers, data memory and pc. -/
def Obligations.HostSeesAllStateAndProgramsDoNot : Prop :=
  (∀ s u : State, snapshot s = snapshot u → s = u) ∧
  (∀ s t, tick s = .next t → (snapshot t).activity = some (tickRecord s)) ∧
  (∀ s : State,
    (∀ f, s.ifId = .occupied f → (snapshot s).ifIdPc = some f.pc) ∧ (∀ d, s.idEx = .occupied d → (snapshot s).idExPc = some d.pc) ∧
    (∀ e, s.exMem = .occupied e → (snapshot s).exMemPc = some e.pc) ∧
    (∀ m, s.memWb = .occupied m → (snapshot s).memWbPc = some m.pc)) ∧
  (∀ i s imem ifId idEx exMem memWb history cycles,
    ∃ t u, exec i s = .next t ∧
      exec i { s with imem := imem, ifId := ifId, idEx := idEx, exMem := exMem, memWb := memWb, history := history,
                      cycles := cycles } = .next u ∧
      u.x = t.x ∧ u.dmem = t.dmem ∧ u.pc = t.pc)

/-- R303 and R354, tick by tick: a tick keeps the consistency of the latches, and the architectural view either stays (a bubble
enters ID/EX: stall, flush, or nothing to decode) or takes exactly one step of the sequential machine. -/
def Obligations.TickRefinesTheSequentialMachine : Prop :=
  ∀ s t, s.PipeInv → tick s = .next t →
    t.PipeInv ∧
    (t.idEx = .empty → t.architectural = s.architectural) ∧
    (∀ d, t.idEx = .occupied d → step s.architectural = .next t.architectural)

/-- R303: the pipeline implements the sequential semantics: one halts exactly when the other does; then registers, data memory and
pc agree, the retired instructions are the executed ones in order, as many as there are steps, and the accesses are the same in
order. -/
def Obligations.PipelineImplementsTheSequentialSemantics : Prop :=
  ∀ s, s.Launched →
    ((∃ fuel r, seqRun fuel s = some r) ↔ (∃ fuel t, run fuel s = .finished t)) ∧
    ∀ n r m t, seqRun n s = some r → run m s = .finished t →
      t.x = r.final.x ∧ t.dmem = r.final.dmem ∧ t.pc = r.final.pc ∧
      retired t.history = r.executed ∧ (t.history.filter fun e => e.atWB.genuine).length = r.executed.length ∧
      runAccesses m s = r.accesses

/-- R356: the cycle count of a terminating run from its retired instructions, stall ticks and taken transfers. -/
def Obligations.CycleCountOfATerminatingRun : Prop :=
  ∀ fuel s t, s.Launched → run fuel s = .finished t →
    let R := (retired t.history).length
    let S := stallTicks fuel s
    let K := takenTransfers fuel s
    t.cycles =
      if R = 0 then 1
      else if lastIsTaken fuel s then R + S + 2 * K + 2
      else R + S + 2 * K + 4

/-! The text codec and loading -/

/-- R110: `encode(decode(w)) = w` for every valid word, and for a line that encodes `decode` gives the canonical spelling of the
instruction the line stands for. -/
def Obligations.CodecRoundTrip : Prop :=
  (∀ w, validWord w = true → encodeLine (decodeText w) = .ok w) ∧
  (∀ line w, encodeLine line = .ok w → ∃ i, assembleLine line = .ok i ∧ i.wf = true ∧ encode i = w ∧ decodeText w = renderInstr i)

/-- R106: the checks of `encode` in their order: mnemonic, operand count and empty tokens, shapes, ranges; a line that passes all
encodes, as a valid word. -/
def Obligations.EncoderChecksInOrder : Prop :=
  ∀ line,
    (findTemplate (mnemonicToken line) = none ↔
      ∀ r ∈ opcodeTable, r.mnemonic.toList ≠ (mnemonicToken line).map Char.toUpper) ∧
    (findTemplate (mnemonicToken line) = none → encodeLine line = .error .InvalidInstruction) ∧
    ∀ t, findTemplate (mnemonicToken line) = some t →
      ((operandTokens line).length ≠ t.shapes.length ∨ [] ∈ operandTokens line → encodeLine line = .error .InvalidArgument) ∧
      ((operandTokens line).length = t.shapes.length → [] ∉ operandTokens line →
        (parseOperands t.shapes (operandTokens line) = none → encodeLine line = .error .InvalidArgument) ∧
        ∀ os, parseOperands t.shapes (operandTokens line) = some os →
          (operandsInRange t.shapes os = false → encodeLine line = .error .FieldOverflow) ∧
          (operandsInRange t.shapes os = true →
            ∃ i, t.build os = some i ∧ i.wf = true ∧ encodeLine line = .ok (encode i) ∧ validWord (encode i) = true))

/-- R93, R106, 95_test_vectors.md S2: the integer operand of every instruction that has one encodes exactly in its range, and one
beyond it is a FieldOverflow, with every register beside it. -/
def Obligations.IntegerOperandRanges : Prop :=
  IntegerThirdRule .addi (-32768) 32767 ∧ IntegerThirdRule .slti (-32768) 32767 ∧
  IntegerThirdRule .andi 0 65535 ∧ IntegerThirdRule .ori 0 65535 ∧ IntegerThirdRule .xori 0 65535 ∧
  IntegerThirdRule .slli 0 31 ∧ IntegerThirdRule .srli 0 31 ∧ IntegerThirdRule .srai 0 31 ∧
  (∀ (r : RegIx) (v : Int),
    EncodesIf (sourceLine "LUI" [renderRegister r, renderInt v]) (0 ≤ v ∧ v ≤ 65535) (.lui r (BitVec.ofInt 16 v))) ∧
  OffsetRule .load ∧ OffsetRule .store ∧
  IntegerThirdRule .beq (-32768) 32767 ∧ IntegerThirdRule .bne (-32768) 32767 ∧
  IntegerThirdRule .blt (-32768) 32767 ∧ IntegerThirdRule .bge (-32768) 32767 ∧
  TargetRule .j ∧ TargetRule .jal

/-- R93, R106, 95_test_vectors.md S2: every register operand of every instruction that has one encodes exactly when its number is at
most 31, and is a FieldOverflow beyond. -/
def Obligations.RegisterOperandRanges : Prop :=
  RegistersRule .add ∧ RegistersRule .sub ∧ RegistersRule .and ∧ RegistersRule .or ∧ RegistersRule .xor ∧
  RegistersRule .slt ∧ RegistersRule .sltu ∧ RegistersRule .sll ∧ RegistersRule .srl ∧ RegistersRule .sra ∧
  RegistersBeforeIntegerRule .addi ∧ RegistersBeforeIntegerRule .andi ∧ RegistersBeforeIntegerRule .ori ∧
  RegistersBeforeIntegerRule .xori ∧ RegistersBeforeIntegerRule .slti ∧ RegistersBeforeIntegerRule .slli ∧
  RegistersBeforeIntegerRule .srli ∧ RegistersBeforeIntegerRule .srai ∧
  (∀ r : Nat, EncodesIf (sourceLine "LUI" [registerToken r, ['0']]) (r ≤ 31) (.lui (BitVec.ofNat 5 r) 0)) ∧
  RegisterAndBaseRule .load ∧ RegisterAndBaseRule .store ∧
  RegistersBeforeIntegerRule .beq ∧ RegistersBeforeIntegerRule .bne ∧ RegistersBeforeIntegerRule .blt ∧
  RegistersBeforeIntegerRule .bge ∧
  (∀ r : Nat, EncodesIf (sourceLine "JR" [registerToken r]) (r ≤ 31) (.jr (BitVec.ofNat 5 r)))

/-- R100, R107, R108: a load aborts on the first line that does not encode, with its number, its text (the line as it stands: the
model's reading, log 10) and the error kind; else the words are those of the lines that are not skipped, in order, and all are valid (R30). -/
def Obligations.LoaderAbortsOnTheFirstBadLine : Prop :=
  (∀ lines e, loadProgram lines = .error e →
    1 ≤ e.line ∧ lines[e.line - 1]? = some e.text ∧ stripLine e.text ≠ [] ∧ encodeLine (stripLine e.text) = .error e.kind ∧
    ∀ k line, k < e.line - 1 → lines[k]? = some line → stripLine line = [] ∨ ∃ w, encodeLine (stripLine line) = .ok w) ∧
  (∀ lines ws, loadProgram lines = .ok ws →
    ((lines.map stripLine).filter fun l => l ≠ []).map encodeLine = ws.map .ok ∧ ∀ w ∈ ws, validWord w = true)

/-- R320, R323: a run of a program loaded through `encode` never faults and is never refused. -/
def Obligations.LoadedProgramsNeverFault : Prop :=
  ∀ lines sizeLog2 regInit dmemInit fuel e, runProgram lines sizeLog2 regInit dmemInit fuel = .ok e →
    (∃ t, e = .finished t) ∨ (∃ t, e = .running t)
end

