-- ==== Sys2Proof/Laws/Driver.lean ====
section
/-! SUPPORT. The driver's loops, one tick at a time (46_clock_driver.md R295, R300). -/

namespace Sys2Proof.Machine

variable {s t : State} {fuel : Nat} {decisions rest : List Decision} {silent : Bool}

@[simp] theorem run_zero : run 0 s = .running s := rfl

/-- A tick, then the termination test. -/
theorem run_succ_of_next (h : tick s = .next t) : run (fuel + 1) s = if t.busy then run fuel t else .finished t := by
  simp [run, h]

@[simp] theorem runHosted_zero : runHosted silent 0 decisions s = .running s := rfl

/-- A tick, then the hook, then the termination test. -/
theorem runHosted_succ_of_next (h : tick s = .next t) :
    runHosted silent (fuel + 1) decisions s =
      match pauseHook silent decisions with
      | .waiting => .paused t
      | .quit => .quit t
      | .goOn rest => if t.busy then runHosted silent fuel rest t else .finished t := by
  cases hp : pauseHook silent decisions <;> simp [runHosted, h, hp]

/-- A fault ends the run. -/
theorem run_succ_of_fault {reason : Fault} (h : tick s = .fault reason) : run (fuel + 1) s = .faulted reason := by
  simp [run, h]

/-- A fault ends the run before the host is asked. -/
theorem runHosted_succ_of_fault {reason : Fault} (h : tick s = .fault reason) :
    runHosted silent (fuel + 1) decisions s = .faulted reason := by
  simp [runHosted, h]

@[simp] theorem pauseHook_silent : pauseHook true decisions = .goOn decisions := rfl
@[simp] theorem pauseHook_nil : pauseHook false [] = .waiting := rfl
@[simp] theorem pauseHook_quit : pauseHook false (.quit :: rest) = .quit := rfl

/-- A decision other than quit lets the driver go on, whichever it is. -/
theorem pauseHook_of_ne_quit {d : Decision} (h : d ≠ .quit) : pauseHook false (d :: rest) = .goOn rest := by
  cases d <;> simp_all [pauseHook]

/-! What the host is given. -/

@[simp] theorem snapshot_x : (snapshot s).x = s.x := rfl
@[simp] theorem snapshot_pc : (snapshot s).pc = s.pc := rfl
@[simp] theorem snapshot_dmem : (snapshot s).dmem = s.dmem := rfl
@[simp] theorem snapshot_imem : (snapshot s).imem = s.imem := rfl
@[simp] theorem snapshot_ifId : (snapshot s).ifId = s.ifId := rfl
@[simp] theorem snapshot_idEx : (snapshot s).idEx = s.idEx := rfl
@[simp] theorem snapshot_exMem : (snapshot s).exMem = s.exMem := rfl
@[simp] theorem snapshot_memWb : (snapshot s).memWb = s.memWb := rfl
@[simp] theorem snapshot_history : (snapshot s).history = s.history := rfl
@[simp] theorem snapshot_cycles : (snapshot s).cycles = s.cycles := rfl
@[simp] theorem latchPc_empty {α : Type} (pcOf : α → Word) : latchPc pcOf .empty = none := rfl
@[simp] theorem latchPc_occupied {α : Type} (pcOf : α → Word) (v : α) : latchPc pcOf (.occupied v) = some (pcOf v) := rfl

@[simp] theorem summary_finished : (RunEnd.finished s).summary = some (report s) := rfl
@[simp] theorem summary_quit : (RunEnd.quit s).summary = some (report s) := rfl

end Sys2Proof.Machine
end

