-- ==== Sys2Proof/Laws/Encoding.lean ====
section
/-! SUPPORT. The fields of an encoded word: each decoder field reads back the operand the encoder placed in it. -/

namespace Sys2Proof

@[simp] theorem opcodeOf_encodeR (op : BitVec 6) (rd rs rt : RegIx) : opcodeOf (encodeR op rd rs rt) = op := by
  apply BitVec.eq_of_getLsbD_eq
  intro i hi
  simp only [opcodeOf, encodeR, BitVec.getLsbD_extractLsb']
  rw [BitVec.getLsbD_append, BitVec.getLsbD_append, BitVec.getLsbD_append, BitVec.getLsbD_append]
  interval_cases i <;> simp

@[simp] theorem rsOf_encodeR (op : BitVec 6) (rd rs rt : RegIx) : rsOf (encodeR op rd rs rt) = rs := by
  apply BitVec.eq_of_getLsbD_eq
  intro i hi
  simp only [rsOf, encodeR, BitVec.getLsbD_extractLsb']
  rw [BitVec.getLsbD_append, BitVec.getLsbD_append, BitVec.getLsbD_append, BitVec.getLsbD_append]
  interval_cases i <;> simp

@[simp] theorem rtOf_encodeR (op : BitVec 6) (rd rs rt : RegIx) : rtOf (encodeR op rd rs rt) = rt := by
  apply BitVec.eq_of_getLsbD_eq
  intro i hi
  simp only [rtOf, encodeR, BitVec.getLsbD_extractLsb']
  rw [BitVec.getLsbD_append, BitVec.getLsbD_append, BitVec.getLsbD_append, BitVec.getLsbD_append]
  interval_cases i <;> simp

@[simp] theorem rdOf_encodeR (op : BitVec 6) (rd rs rt : RegIx) : rdOf (encodeR op rd rs rt) = rd := by
  apply BitVec.eq_of_getLsbD_eq
  intro i hi
  simp only [rdOf, encodeR, BitVec.getLsbD_extractLsb']
  rw [BitVec.getLsbD_append, BitVec.getLsbD_append, BitVec.getLsbD_append, BitVec.getLsbD_append]
  interval_cases i <;> simp

@[simp] theorem opcodeOf_encodeI (op : BitVec 6) (rs rt : RegIx) (imm : Imm16) : opcodeOf (encodeI op rs rt imm) = op := by
  apply BitVec.eq_of_getLsbD_eq
  intro i hi
  simp only [opcodeOf, encodeI, BitVec.getLsbD_extractLsb']
  rw [BitVec.getLsbD_append, BitVec.getLsbD_append, BitVec.getLsbD_append]
  interval_cases i <;> simp

@[simp] theorem rsOf_encodeI (op : BitVec 6) (rs rt : RegIx) (imm : Imm16) : rsOf (encodeI op rs rt imm) = rs := by
  apply BitVec.eq_of_getLsbD_eq
  intro i hi
  simp only [rsOf, encodeI, BitVec.getLsbD_extractLsb']
  rw [BitVec.getLsbD_append, BitVec.getLsbD_append, BitVec.getLsbD_append]
  interval_cases i <;> simp

@[simp] theorem rtOf_encodeI (op : BitVec 6) (rs rt : RegIx) (imm : Imm16) : rtOf (encodeI op rs rt imm) = rt := by
  apply BitVec.eq_of_getLsbD_eq
  intro i hi
  simp only [rtOf, encodeI, BitVec.getLsbD_extractLsb']
  rw [BitVec.getLsbD_append, BitVec.getLsbD_append, BitVec.getLsbD_append]
  interval_cases i <;> simp

@[simp] theorem immOf_encodeI (op : BitVec 6) (rs rt : RegIx) (imm : Imm16) : immOf (encodeI op rs rt imm) = imm := by
  apply BitVec.eq_of_getLsbD_eq
  intro i hi
  simp only [immOf, encodeI, BitVec.getLsbD_extractLsb']
  rw [BitVec.getLsbD_append, BitVec.getLsbD_append, BitVec.getLsbD_append]
  interval_cases i <;> simp

@[simp] theorem opcodeOf_encodeJ (op : BitVec 6) (target : Target26) : opcodeOf (encodeJ op target) = op := by
  apply BitVec.eq_of_getLsbD_eq
  intro i hi
  simp only [opcodeOf, encodeJ, BitVec.getLsbD_extractLsb']
  rw [BitVec.getLsbD_append]
  interval_cases i <;> simp

@[simp] theorem targetOf_encodeJ (op : BitVec 6) (target : Target26) : targetOf (encodeJ op target) = target := by
  apply BitVec.eq_of_getLsbD_eq
  intro i hi
  simp only [targetOf, encodeJ, BitVec.getLsbD_extractLsb']
  rw [BitVec.getLsbD_append]
  interval_cases i <;> simp

@[simp] theorem opcodeOf_encodeJR (op : BitVec 6) (rs : RegIx) : opcodeOf (encodeJR op rs) = op := by
  apply BitVec.eq_of_getLsbD_eq
  intro i hi
  simp only [opcodeOf, encodeJR, BitVec.getLsbD_extractLsb']
  rw [BitVec.getLsbD_append, BitVec.getLsbD_append]
  interval_cases i <;> simp

@[simp] theorem rsOf_encodeJR (op : BitVec 6) (rs : RegIx) : rsOf (encodeJR op rs) = rs := by
  apply BitVec.eq_of_getLsbD_eq
  intro i hi
  simp only [rsOf, encodeJR, BitVec.getLsbD_extractLsb']
  rw [BitVec.getLsbD_append, BitVec.getLsbD_append]
  interval_cases i <;> simp

/-! The must-be-zero fields (30_encoding.md R96). -/

@[simp] theorem zeroField_encodeR (op : BitVec 6) (rd rs rt : RegIx) :
    (encodeR op rd rs rt).extractLsb' 0 11 = 0 := by
  apply BitVec.eq_of_getLsbD_eq
  intro i hi
  simp only [encodeR, BitVec.getLsbD_extractLsb']
  rw [BitVec.getLsbD_append, BitVec.getLsbD_append, BitVec.getLsbD_append, BitVec.getLsbD_append]
  interval_cases i <;> simp

@[simp] theorem zeroField_encodeJR (op : BitVec 6) (rs : RegIx) :
    (encodeJR op rs).extractLsb' 0 21 = 0 := by
  apply BitVec.eq_of_getLsbD_eq
  intro i hi
  simp only [encodeJR, BitVec.getLsbD_extractLsb']
  rw [BitVec.getLsbD_append, BitVec.getLsbD_append]
  interval_cases i <;> simp

@[simp] theorem shamtField_encodeI (op : BitVec 6) (rs rt : RegIx) (imm : Imm16) :
    (encodeI op rs rt imm).extractLsb' 5 11 = imm.extractLsb' 5 11 := by
  apply BitVec.eq_of_getLsbD_eq
  intro i hi
  simp only [encodeI, BitVec.getLsbD_extractLsb']
  rw [BitVec.getLsbD_append, BitVec.getLsbD_append, BitVec.getLsbD_append]
  interval_cases i <;> simp

/-! Words under the masks of the opcode map. -/

/-- An encoded word under its row's mask is the opcode and zeros (R94). -/
theorem encodeR_masked (op : BitVec 6) (rd rs rt : RegIx) :
    encodeR op rd rs rt &&& 0xFC0007FF = op ++ (0 : BitVec 26) := by
  apply BitVec.eq_of_getLsbD_eq
  intro i hi
  simp only [encodeR, BitVec.getLsbD_and]
  rw [BitVec.getLsbD_append, BitVec.getLsbD_append, BitVec.getLsbD_append, BitVec.getLsbD_append, BitVec.getLsbD_append]
  interval_cases i <;> simp

/-- An encoded word under its row's mask is the opcode and zeros (R94). -/
theorem encodeI_masked (op : BitVec 6) (rs rt : RegIx) (imm : Imm16) :
    encodeI op rs rt imm &&& 0xFC000000 = op ++ (0 : BitVec 26) := by
  apply BitVec.eq_of_getLsbD_eq
  intro i hi
  simp only [encodeI, BitVec.getLsbD_and]
  rw [BitVec.getLsbD_append, BitVec.getLsbD_append, BitVec.getLsbD_append, BitVec.getLsbD_append]
  interval_cases i <;> simp

/-- An encoded word under its row's mask is the opcode and zeros (R94). -/
theorem encodeJ_masked (op : BitVec 6) (target : Target26) :
    encodeJ op target &&& 0xFC000000 = op ++ (0 : BitVec 26) := by
  apply BitVec.eq_of_getLsbD_eq
  intro i hi
  simp only [encodeJ, BitVec.getLsbD_and]
  rw [BitVec.getLsbD_append, BitVec.getLsbD_append]
  interval_cases i <;> simp

/-- An encoded word under its row's mask is the opcode and zeros (R94). -/
theorem encodeJR_masked (op : BitVec 6) (rs : RegIx) :
    encodeJR op rs &&& 0xFC1FFFFF = op ++ (0 : BitVec 26) := by
  apply BitVec.eq_of_getLsbD_eq
  intro i hi
  simp only [encodeJR, BitVec.getLsbD_and]
  rw [BitVec.getLsbD_append, BitVec.getLsbD_append, BitVec.getLsbD_append]
  interval_cases i <;> simp

end Sys2Proof
end

