-- ==== Sys2Proof/Laws/State.lean ====
section
/-! SUPPORT. One lemma per field per update of State, true by rfl. -/

namespace Sys2Proof.Machine

variable (s : State) (r : RegIx) (addr v t w : Word)

@[simp] theorem writeReg_x : (s.writeReg r v).x = RegFile.write s.x r v := rfl
@[simp] theorem writeReg_pc : (s.writeReg r v).pc = s.pc := rfl
@[simp] theorem writeReg_dmem : (s.writeReg r v).dmem = s.dmem := rfl
@[simp] theorem writeReg_imem : (s.writeReg r v).imem = s.imem := rfl
@[simp] theorem writeReg_ifId : (s.writeReg r v).ifId = s.ifId := rfl
@[simp] theorem writeReg_idEx : (s.writeReg r v).idEx = s.idEx := rfl
@[simp] theorem writeReg_exMem : (s.writeReg r v).exMem = s.exMem := rfl
@[simp] theorem writeReg_memWb : (s.writeReg r v).memWb = s.memWb := rfl
@[simp] theorem writeReg_history : (s.writeReg r v).history = s.history := rfl
@[simp] theorem writeReg_cycles : (s.writeReg r v).cycles = s.cycles := rfl

@[simp] theorem memWrite_x : (s.memWrite addr v).x = s.x := rfl
@[simp] theorem memWrite_pc : (s.memWrite addr v).pc = s.pc := rfl
@[simp] theorem memWrite_dmem : (s.memWrite addr v).dmem = s.dmem.write addr v := rfl
@[simp] theorem memWrite_imem : (s.memWrite addr v).imem = s.imem := rfl
@[simp] theorem memWrite_ifId : (s.memWrite addr v).ifId = s.ifId := rfl
@[simp] theorem memWrite_idEx : (s.memWrite addr v).idEx = s.idEx := rfl
@[simp] theorem memWrite_exMem : (s.memWrite addr v).exMem = s.exMem := rfl
@[simp] theorem memWrite_memWb : (s.memWrite addr v).memWb = s.memWb := rfl
@[simp] theorem memWrite_history : (s.memWrite addr v).history = s.history := rfl
@[simp] theorem memWrite_cycles : (s.memWrite addr v).cycles = s.cycles := rfl

@[simp] theorem setPc_x : (s.setPc t).x = s.x := rfl
@[simp] theorem setPc_pc : (s.setPc t).pc = t := rfl
@[simp] theorem setPc_dmem : (s.setPc t).dmem = s.dmem := rfl
@[simp] theorem setPc_imem : (s.setPc t).imem = s.imem := rfl
@[simp] theorem setPc_ifId : (s.setPc t).ifId = s.ifId := rfl
@[simp] theorem setPc_idEx : (s.setPc t).idEx = s.idEx := rfl
@[simp] theorem setPc_exMem : (s.setPc t).exMem = s.exMem := rfl
@[simp] theorem setPc_memWb : (s.setPc t).memWb = s.memWb := rfl
@[simp] theorem setPc_history : (s.setPc t).history = s.history := rfl
@[simp] theorem setPc_cycles : (s.setPc t).cycles = s.cycles := rfl

@[simp] theorem advance_x : s.advance.x = s.x := rfl
@[simp] theorem advance_pc : s.advance.pc = nextIndex s.pc := rfl
@[simp] theorem advance_dmem : s.advance.dmem = s.dmem := rfl
@[simp] theorem advance_imem : s.advance.imem = s.imem := rfl
@[simp] theorem advance_ifId : s.advance.ifId = s.ifId := rfl
@[simp] theorem advance_idEx : s.advance.idEx = s.idEx := rfl
@[simp] theorem advance_exMem : s.advance.exMem = s.exMem := rfl
@[simp] theorem advance_memWb : s.advance.memWb = s.memWb := rfl
@[simp] theorem advance_history : s.advance.history = s.history := rfl
@[simp] theorem advance_cycles : s.advance.cycles = s.cycles := rfl

@[simp] theorem placeFetchWord_x : (s.placeFetchWord w).x = s.x := rfl
@[simp] theorem placeFetchWord_pc : (s.placeFetchWord w).pc = s.pc := rfl
@[simp] theorem placeFetchWord_dmem : (s.placeFetchWord w).dmem = s.dmem := rfl
@[simp] theorem placeFetchWord_imem : (s.placeFetchWord w).imem = placeWord s.imem s.pc.toNat w := rfl
@[simp] theorem placeFetchWord_ifId : (s.placeFetchWord w).ifId = s.ifId := rfl
@[simp] theorem placeFetchWord_idEx : (s.placeFetchWord w).idEx = s.idEx := rfl
@[simp] theorem placeFetchWord_exMem : (s.placeFetchWord w).exMem = s.exMem := rfl
@[simp] theorem placeFetchWord_memWb : (s.placeFetchWord w).memWb = s.memWb := rfl
@[simp] theorem placeFetchWord_history : (s.placeFetchWord w).history = s.history := rfl
@[simp] theorem placeFetchWord_cycles : (s.placeFetchWord w).cycles = s.cycles := rfl

end Sys2Proof.Machine
end

