-- ==== Sys2Proof/Laws/Memory.lean ====
section
/-! SUPPORT. Data memory: a read after a write, and that every memory operation keeps the canonical form (20_memory.md R61, R62). -/

namespace Sys2Proof.Machine

@[simp] theorem Memory.write_sizeLog2 (m : Memory) (addr v : Word) : (m.write addr v).sizeLog2 = m.sizeLog2 := rfl
@[simp] theorem Memory.writeCell_sizeLog2 (m : Memory) (k : Nat) (v : Word) : (m.writeCell k v).sizeLog2 = m.sizeLog2 := rfl
@[simp] theorem Memory.write_words (m : Memory) (addr v : Word) : (m.write addr v).words = m.words := rfl
@[simp] theorem Memory.write_cellOf (m : Memory) (a addr v : Word) : (m.write a v).cellOf addr = m.cellOf addr := rfl

theorem Memory.words_pos (m : Memory) : 0 < m.words := Nat.two_pow_pos _

theorem Memory.cellOf_lt (m : Memory) (addr : Word) : m.cellOf addr < m.words := Nat.mod_lt _ m.words_pos

/-- Keys of a rising list are above `k`. -/
abbrev cellsAbove (k : Nat) (l : List MemCell) : Prop := ∀ c ∈ l, k < c.1

theorem cellRead_of_above {k : Nat} {l : List MemCell} (h : cellsAbove k l) : cellRead k l = Config.unlistedCell := by
  induction l with
  | nil => rfl
  | cons c rest ih =>
    have hc : k < c.1 := h c (by simp)
    simp [cellRead, Nat.ne_of_lt hc, ih fun d hd => h d (by simp [hd])]

theorem cellRead_cellCons {k q : Nat} {v : Word} {l : List MemCell} (h : cellsAbove k l) :
    cellRead q (cellCons k v l) = if q = k then v else cellRead q l := by
  by_cases hv : v = Config.unlistedCell
  · by_cases hq : q = k
    · subst hq; simp [cellCons, hv, cellRead_of_above h]
    · simp [cellCons, hv, hq]
  · simp [cellCons, hv, cellRead]

/-- A read of cell `q` after a write of cell `k`, in a list with rising keys. -/
theorem cellRead_cellWrite {k q : Nat} {v : Word} {l : List MemCell} (h : l.Pairwise (fun c d => c.1 < d.1)) :
    cellRead q (cellWrite k v l) = if q = k then v else cellRead q l := by
  induction l with
  | nil => exact cellRead_cellCons (by simp)
  | cons c rest ih =>
    obtain ⟨hhead, htail⟩ := List.pairwise_cons.mp h
    simp only [cellWrite]
    split
    · exact cellRead_cellCons (by rintro d (_ | ⟨_, hd⟩); exacts [‹k < c.1›, Nat.lt_trans ‹k < c.1› (hhead _ hd)])
    · split
      · subst_vars
        rw [cellRead_cellCons hhead]
        by_cases hq : q = c.1 <;> simp [cellRead, hq]
      · rename_i hlt hne
        by_cases hq : q = c.1
        · subst hq; simp [cellRead, Ne.symm hne]
        · simp [cellRead, hq, ih htail]

theorem mem_cellCons {k : Nat} {v : Word} {l : List MemCell} {c : MemCell} (h : c ∈ cellCons k v l) :
    c ∈ l ∨ c = (k, v) ∧ v ≠ Config.unlistedCell := by
  unfold cellCons at h
  split at h
  · exact .inl h
  · rcases List.mem_cons.mp h with rfl | h
    · exact .inr ⟨rfl, ‹_›⟩
    · exact .inl h

/-- An entry after a write is an old one or the written one. -/
theorem mem_cellWrite {k : Nat} {v : Word} {l : List MemCell} {c : MemCell} (h : c ∈ cellWrite k v l) :
    c ∈ l ∨ c = (k, v) ∧ v ≠ Config.unlistedCell := by
  induction l with
  | nil => exact mem_cellCons h
  | cons d rest ih =>
    simp only [cellWrite] at h
    split at h
    · exact mem_cellCons h
    · split at h
      · rcases mem_cellCons h with h | h
        · exact .inl (by simp [h])
        · exact .inr h
      · rcases List.mem_cons.mp h with rfl | h
        · exact .inl (by simp)
        · rcases ih h with h | h
          · exact .inl (by simp [h])
          · exact .inr h

theorem cellCons_rising {k : Nat} {v : Word} {l : List MemCell} (h : l.Pairwise (fun c d => c.1 < d.1)) (ha : cellsAbove k l) :
    (cellCons k v l).Pairwise (fun c d => c.1 < d.1) := by
  unfold cellCons
  split
  · exact h
  · exact List.pairwise_cons.mpr ⟨ha, h⟩

theorem cellWrite_rising {k : Nat} {v : Word} {l : List MemCell} (h : l.Pairwise (fun c d => c.1 < d.1)) :
    (cellWrite k v l).Pairwise (fun c d => c.1 < d.1) := by
  induction l with
  | nil => exact cellCons_rising .nil (by simp)
  | cons c rest ih =>
    obtain ⟨hhead, htail⟩ := List.pairwise_cons.mp h
    simp only [cellWrite]
    split
    · exact cellCons_rising h (by rintro d (_ | ⟨_, hd⟩); exacts [‹k < c.1›, Nat.lt_trans ‹k < c.1› (hhead _ hd)])
    · split
      · subst_vars; exact cellCons_rising htail hhead
      · refine List.pairwise_cons.mpr ⟨fun d hd => ?_, ih htail⟩
        rcases mem_cellWrite hd with hd | ⟨rfl, -⟩
        · exact hhead d hd
        · show c.1 < k; omega

/-- Writing a cell inside the memory keeps the canonical form. -/
theorem Memory.writeCell_wf {m : Memory} {k : Nat} {v : Word} (h : m.wf) (hk : k < m.words) : (m.writeCell k v).wf := by
  refine ⟨cellWrite_rising h.1, fun c hc => ?_⟩
  rcases mem_cellWrite hc with hc | ⟨rfl, hv⟩
  · exact h.2 c hc
  · exact ⟨hk, hv⟩

/-- `MemWrite` keeps the canonical form (R62). -/
theorem Memory.write_wf {m : Memory} {addr v : Word} (h : m.wf) : (m.write addr v).wf := writeCell_wf h (m.cellOf_lt addr)

/-- A read after a write to the same or another cell (R61, R62), in a canonical memory. -/
theorem Memory.read_write {m : Memory} {a b v : Word} (h : m.wf) :
    (m.write a v).read b = if m.cellOf b = m.cellOf a then v else m.read b := cellRead_cellWrite h.1

theorem mem_initCells {n k : Nat} {l : List Word} {c : MemCell} (h : c ∈ initCells n k l) :
    k ≤ c.1 ∧ c.1 < k + n ∧ c.2 ≠ Config.unlistedCell := by
  induction n generalizing k l with
  | zero => simp [initCells] at h
  | succ n ih =>
    cases l with
    | nil => simp [initCells] at h
    | cons v rest =>
      rcases mem_cellCons h with h | ⟨rfl, hv⟩
      · obtain ⟨h1, h2, h3⟩ := ih h
        exact ⟨by omega, by omega, h3⟩
      · exact ⟨Nat.le_refl k, by simp, hv⟩

theorem initCells_rising (n k : Nat) (l : List Word) : (initCells n k l).Pairwise (fun c d => c.1 < d.1) := by
  induction n generalizing k l with
  | zero => exact .nil
  | succ n ih =>
    cases l with
    | nil => exact .nil
    | cons v rest => exact cellCons_rising (ih _ _) fun c hc => (mem_initCells hc).1

/-- The launch's data memory is canonical (R350). -/
theorem Memory.init_wf (sizeLog2 : Fin 33) (dmemInit : List Word) : (Memory.init sizeLog2 dmemInit).wf :=
  ⟨initCells_rising _ _ _, fun _ hc => ⟨by simpa [Memory.words, Memory.init] using (mem_initCells hc).2.1, (mem_initCells hc).2.2⟩⟩

/-- The reset memory is canonical. -/
theorem reset_dmem_wf : State.reset.dmem.wf := ⟨.nil, by simp [State.reset]⟩

end Sys2Proof.Machine
end

