-- ==== Sys2Proof/Laws/Registers.lean ====
section
/-! SUPPORT. The register file: what a read after a write gives (10_state.md R22). -/

namespace Sys2Proof.Machine

@[simp] theorem RegFile.read_zero (x : RegFile) : RegFile.read x 0#5 = 0 := rfl

@[simp] theorem RegFile.write_zero (x : RegFile) (v : Word) : RegFile.write x 0#5 v = x := rfl

/-- A read of `q` after a write of `r`: the written value when `q = r` is not register 0, else as before. -/
theorem RegFile.read_write (x : RegFile) (r q : RegIx) (v : Word) :
    RegFile.read (RegFile.write x r v) q = if q = r ∧ r ≠ 0 then v else RegFile.read x q := by
  by_cases hr : r = 0#5
  · subst hr; simp
  by_cases hq : q = 0#5
  · subst hq
    have hne : ¬0#5 = r := Ne.symm hr
    simp [hne]
  have hne : (r.toNat = q.toNat) ↔ q = r := by rw [← BitVec.toNat_inj]; exact eq_comm
  simp only [RegFile.read, RegFile.write, Config.zeroReg]
  by_cases hqr : q = r
  · subst hqr; simp [hr]
  · simp [hr, hq, hqr, hne]

@[simp] theorem RegFile.read_write_same (x : RegFile) (r : RegIx) (v : Word) (h : r ≠ 0#5) :
    RegFile.read (RegFile.write x r v) r = v := by
  rw [RegFile.read_write, if_pos ⟨rfl, h⟩]

theorem RegFile.read_write_other (x : RegFile) (r q : RegIx) (v : Word) (h : q ≠ r) :
    RegFile.read (RegFile.write x r v) q = RegFile.read x q := by
  rw [RegFile.read_write, if_neg fun hc => h hc.1]

/-- A write keeps slot 0 at 0. -/
theorem RegFile.write_slotZero (x : RegFile) (r : RegIx) (v : Word) (h : x[0] = 0) : (RegFile.write x r v)[0] = 0 := by
  unfold RegFile.write
  split
  · exact h
  · rename_i hr
    have hne : r.toNat ≠ 0 := fun h0 => hr (BitVec.eq_of_toNat_eq h0)
    rw [Vector.getElem_set, if_neg hne, h]

theorem readReg_writeReg (s : State) (r q : RegIx) (v : Word) :
    (s.writeReg r v).readReg q = if q = r ∧ r ≠ 0 then v else s.readReg q := RegFile.read_write s.x r q v

@[simp] theorem readReg_zero (s : State) : s.readReg 0#5 = 0 := rfl
@[simp] theorem readReg_memWrite (s : State) (addr v : Word) (q : RegIx) : (s.memWrite addr v).readReg q = s.readReg q := rfl
@[simp] theorem readReg_setPc (s : State) (t : Word) (q : RegIx) : (s.setPc t).readReg q = s.readReg q := rfl
@[simp] theorem readReg_advance (s : State) (q : RegIx) : s.advance.readReg q = s.readReg q := rfl

end Sys2Proof.Machine
end

