-- ==== Sys2Proof/Laws/Exec.lean ====
section
/-! SUPPORT. What the shared operations of the instruction meanings do, and the cases of one sequential step. -/

namespace Sys2Proof.Machine

/-- The common effect of format R touches the destination register and the pc only (R140). -/
theorem aluRegister_eq (s : State) (op : AluOp) (rd rs rt : RegIx) :
    s.aluRegister op rd rs rt =
      { s with x := RegFile.write s.x rd (alu op (s.readReg rs) (s.readReg rt) s.pc), pc := nextIndex s.pc } := rfl

/-- The common effect of formats IS, IU and IH touches the destination register and the pc only (R160). -/
theorem aluImmediate_eq (s : State) (op : AluOp) (rt rs : RegIx) (b : Word) :
    s.aluImmediate op rt rs b =
      { s with x := RegFile.write s.x rt (alu op (s.readReg rs) b s.pc), pc := nextIndex s.pc } := rfl

/-- A branch touches the pc only: the target when taken, the next index otherwise (R190). -/
theorem branch_eq (s : State) (ctl : CtlKind) (rs rt : RegIx) (imm : Imm16) :
    s.branch ctl rs rt imm =
      { s with pc := if transferTaken ctl (s.readReg rs) (s.readReg rt) then branchTarget s.pc imm else nextIndex s.pc } := by
  unfold State.branch
  split <;> rfl

/-- The cases of one sequential step that answers a next state (R303). -/
theorem step_next {s t : State} (h : step s = .next t) :
    (s.fetch = none ∧ t = s) ∨ ∃ w i, s.fetch = some w ∧ decodeWord w = some i ∧ exec i s = .next t := by
  unfold step at h
  split at h
  · exact .inl ⟨‹_›, (Host.Outcome.next.inj h).symm⟩
  · split at h
    · simp [reservedInstruction] at h
    · exact .inr ⟨_, _, ‹_›, ‹_›, h⟩

/-- The one way a sequential step stops: a reserved word at the pc (R323), or a stop of the instruction itself. -/
theorem step_fault {s : State} {reason : Fault} (h : step s = .fault reason) :
    ∃ w, s.fetch = some w ∧ (decodeWord w = none ∧ reason = .reservedInstruction s.pc w ∨
      ∃ i, decodeWord w = some i ∧ exec i s = .fault reason) := by
  unfold step at h
  split at h
  · cases h
  · split at h
    · exact ⟨_, ‹_›, .inl ⟨‹_›, (Host.Outcome.fault.inj h).symm⟩⟩
    · exact ⟨_, ‹_›, .inr ⟨_, ‹_›, h⟩⟩

end Sys2Proof.Machine
end

