-- ==== Sys2Proof/Laws/PerInstr.lean ====
section
/-! SUPPORT. Laws stated instruction by instruction. Family EncodingMatchesRow: the word of a well-formed instruction matches the row
of the opcode map that has its mnemonic (30_encoding.md R94). -/

namespace Sys2Proof.Laws

/-- The bits of an in-range shift amount above bit 4 are zero (R92, format IH). -/
theorem shamt_highBit (shamt : Imm16) (h : shamtInRange shamt = true) (k : Nat) (hk : 5 ≤ k) : shamt.getLsbD k = false := by
  have hz : shamt.extractLsb' 5 11 = 0 := by simpa [shamtInRange] using h
  by_cases h16 : k < 16
  · have hbit := congrArg (fun v => BitVec.getLsbD v (k - 5)) hz
    simpa [BitVec.getLsbD_extractLsb', Nat.add_sub_cancel' hk, show k - 5 < 11 by omega] using hbit
  · exact BitVec.getLsbD_of_ge _ _ (by omega)

/-- An encoded shift-immediate word under the mask of its row is the opcode and zeros (format IH). -/
theorem encodeI_masked_shamt (op : BitVec 6) (rs rt : RegIx) (shamt : Imm16) (h : shamtInRange shamt = true) :
    encodeI op rs rt shamt &&& 0xFC00FFE0 = op ++ (0 : BitVec 26) := by
  have htop := shamt_highBit shamt h
  apply BitVec.eq_of_getLsbD_eq
  intro i hi
  simp only [encodeI, BitVec.getLsbD_and]
  rw [BitVec.getLsbD_append, BitVec.getLsbD_append, BitVec.getLsbD_append, BitVec.getLsbD_append]
  interval_cases i <;> simp [-BitVec.getLsbD_eq_getElem, htop]

/-- An encoded LUI word under the mask of its row is the opcode and zeros (format L). -/
theorem encodeI_masked_lui (op : BitVec 6) (rt : RegIx) (imm : Imm16) :
    encodeI op 0 rt imm &&& 0xFFE00000 = op ++ (0 : BitVec 26) := by
  apply BitVec.eq_of_getLsbD_eq
  intro i hi
  simp only [encodeI, BitVec.getLsbD_and]
  rw [BitVec.getLsbD_append, BitVec.getLsbD_append, BitVec.getLsbD_append, BitVec.getLsbD_append]
  interval_cases i <;> simp

end Sys2Proof.Laws

/-- The word of the instruction, if it is well formed, matches the row of the opcode map with its mnemonic (R94). -/
def Sys2Proof.Laws.EncodingMatchesRow.Statement (i : Sys2Proof.Instr) : Prop :=
  i.wf = true → ∃ r ∈ Sys2Proof.opcodeTable, r.mnemonic = i.mnemonic ∧ r.matchesWord (Sys2Proof.encode i) = true

namespace Sys2Proof.Laws

theorem EncodingMatchesRow.nop : EncodingMatchesRow.Statement .nop := fun _ =>
  ⟨⟨"NOP", 0x00000000, 0xFFFFFFFF⟩, by decide, rfl, by decide⟩

theorem EncodingMatchesRow.add (rd rs rt : RegIx) : EncodingMatchesRow.Statement (.add rd rs rt) := fun _ =>
  ⟨⟨"ADD", 0x04000000, 0xFC0007FF⟩, by decide, rfl, beq_iff_eq.mpr ((encodeR_masked 0x01 rd rs rt).trans (by decide))⟩

theorem EncodingMatchesRow.sub (rd rs rt : RegIx) : EncodingMatchesRow.Statement (.sub rd rs rt) := fun _ =>
  ⟨⟨"SUB", 0x08000000, 0xFC0007FF⟩, by decide, rfl, beq_iff_eq.mpr ((encodeR_masked 0x02 rd rs rt).trans (by decide))⟩

theorem EncodingMatchesRow.and (rd rs rt : RegIx) : EncodingMatchesRow.Statement (.and rd rs rt) := fun _ =>
  ⟨⟨"AND", 0x0C000000, 0xFC0007FF⟩, by decide, rfl, beq_iff_eq.mpr ((encodeR_masked 0x03 rd rs rt).trans (by decide))⟩

theorem EncodingMatchesRow.or (rd rs rt : RegIx) : EncodingMatchesRow.Statement (.or rd rs rt) := fun _ =>
  ⟨⟨"OR", 0x10000000, 0xFC0007FF⟩, by decide, rfl, beq_iff_eq.mpr ((encodeR_masked 0x04 rd rs rt).trans (by decide))⟩

theorem EncodingMatchesRow.xor (rd rs rt : RegIx) : EncodingMatchesRow.Statement (.xor rd rs rt) := fun _ =>
  ⟨⟨"XOR", 0x14000000, 0xFC0007FF⟩, by decide, rfl, beq_iff_eq.mpr ((encodeR_masked 0x05 rd rs rt).trans (by decide))⟩

theorem EncodingMatchesRow.slt (rd rs rt : RegIx) : EncodingMatchesRow.Statement (.slt rd rs rt) := fun _ =>
  ⟨⟨"SLT", 0x18000000, 0xFC0007FF⟩, by decide, rfl, beq_iff_eq.mpr ((encodeR_masked 0x06 rd rs rt).trans (by decide))⟩

theorem EncodingMatchesRow.sltu (rd rs rt : RegIx) : EncodingMatchesRow.Statement (.sltu rd rs rt) := fun _ =>
  ⟨⟨"SLTU", 0x1C000000, 0xFC0007FF⟩, by decide, rfl, beq_iff_eq.mpr ((encodeR_masked 0x07 rd rs rt).trans (by decide))⟩

theorem EncodingMatchesRow.sll (rd rs rt : RegIx) : EncodingMatchesRow.Statement (.sll rd rs rt) := fun _ =>
  ⟨⟨"SLL", 0x20000000, 0xFC0007FF⟩, by decide, rfl, beq_iff_eq.mpr ((encodeR_masked 0x08 rd rs rt).trans (by decide))⟩

theorem EncodingMatchesRow.srl (rd rs rt : RegIx) : EncodingMatchesRow.Statement (.srl rd rs rt) := fun _ =>
  ⟨⟨"SRL", 0x24000000, 0xFC0007FF⟩, by decide, rfl, beq_iff_eq.mpr ((encodeR_masked 0x09 rd rs rt).trans (by decide))⟩

theorem EncodingMatchesRow.sra (rd rs rt : RegIx) : EncodingMatchesRow.Statement (.sra rd rs rt) := fun _ =>
  ⟨⟨"SRA", 0x28000000, 0xFC0007FF⟩, by decide, rfl, beq_iff_eq.mpr ((encodeR_masked 0x0A rd rs rt).trans (by decide))⟩

theorem EncodingMatchesRow.addi (rt rs : RegIx) (imm : Imm16) : EncodingMatchesRow.Statement (.addi rt rs imm) := fun _ =>
  ⟨⟨"ADDI", 0x40000000, 0xFC000000⟩, by decide, rfl, beq_iff_eq.mpr ((encodeI_masked 0x10 rs rt imm).trans (by decide))⟩

theorem EncodingMatchesRow.andi (rt rs : RegIx) (imm : Imm16) : EncodingMatchesRow.Statement (.andi rt rs imm) := fun _ =>
  ⟨⟨"ANDI", 0x44000000, 0xFC000000⟩, by decide, rfl, beq_iff_eq.mpr ((encodeI_masked 0x11 rs rt imm).trans (by decide))⟩

theorem EncodingMatchesRow.ori (rt rs : RegIx) (imm : Imm16) : EncodingMatchesRow.Statement (.ori rt rs imm) := fun _ =>
  ⟨⟨"ORI", 0x48000000, 0xFC000000⟩, by decide, rfl, beq_iff_eq.mpr ((encodeI_masked 0x12 rs rt imm).trans (by decide))⟩

theorem EncodingMatchesRow.xori (rt rs : RegIx) (imm : Imm16) : EncodingMatchesRow.Statement (.xori rt rs imm) := fun _ =>
  ⟨⟨"XORI", 0x4C000000, 0xFC000000⟩, by decide, rfl, beq_iff_eq.mpr ((encodeI_masked 0x13 rs rt imm).trans (by decide))⟩

theorem EncodingMatchesRow.slti (rt rs : RegIx) (imm : Imm16) : EncodingMatchesRow.Statement (.slti rt rs imm) := fun _ =>
  ⟨⟨"SLTI", 0x50000000, 0xFC000000⟩, by decide, rfl, beq_iff_eq.mpr ((encodeI_masked 0x14 rs rt imm).trans (by decide))⟩

theorem EncodingMatchesRow.load (rt rs : RegIx) (imm : Imm16) : EncodingMatchesRow.Statement (.load rt rs imm) := fun _ =>
  ⟨⟨"LOAD", 0x80000000, 0xFC000000⟩, by decide, rfl, beq_iff_eq.mpr ((encodeI_masked 0x20 rs rt imm).trans (by decide))⟩

theorem EncodingMatchesRow.store (rt rs : RegIx) (imm : Imm16) : EncodingMatchesRow.Statement (.store rt rs imm) := fun _ =>
  ⟨⟨"STORE", 0x84000000, 0xFC000000⟩, by decide, rfl, beq_iff_eq.mpr ((encodeI_masked 0x21 rs rt imm).trans (by decide))⟩

theorem EncodingMatchesRow.slli (rt rs : RegIx) (shamt : Imm16) : EncodingMatchesRow.Statement (.slli rt rs shamt) := fun h =>
  ⟨⟨"SLLI", 0x54000000, 0xFC00FFE0⟩, by decide, rfl, beq_iff_eq.mpr ((encodeI_masked_shamt 0x15 rs rt shamt h).trans (by decide))⟩

theorem EncodingMatchesRow.srli (rt rs : RegIx) (shamt : Imm16) : EncodingMatchesRow.Statement (.srli rt rs shamt) := fun h =>
  ⟨⟨"SRLI", 0x58000000, 0xFC00FFE0⟩, by decide, rfl, beq_iff_eq.mpr ((encodeI_masked_shamt 0x16 rs rt shamt h).trans (by decide))⟩

theorem EncodingMatchesRow.srai (rt rs : RegIx) (shamt : Imm16) : EncodingMatchesRow.Statement (.srai rt rs shamt) := fun h =>
  ⟨⟨"SRAI", 0x5C000000, 0xFC00FFE0⟩, by decide, rfl, beq_iff_eq.mpr ((encodeI_masked_shamt 0x17 rs rt shamt h).trans (by decide))⟩

theorem EncodingMatchesRow.lui (rt : RegIx) (imm : Imm16) : EncodingMatchesRow.Statement (.lui rt imm) := fun _ =>
  ⟨⟨"LUI", 0x60000000, 0xFFE00000⟩, by decide, rfl, beq_iff_eq.mpr ((encodeI_masked_lui 0x18 rt imm).trans (by decide))⟩

theorem EncodingMatchesRow.beq (rs rt : RegIx) (imm : Imm16) : EncodingMatchesRow.Statement (.beq rs rt imm) := fun _ =>
  ⟨⟨"BEQ", 0xC0000000, 0xFC000000⟩, by decide, rfl, beq_iff_eq.mpr ((encodeI_masked 0x30 rs rt imm).trans (by decide))⟩

theorem EncodingMatchesRow.bne (rs rt : RegIx) (imm : Imm16) : EncodingMatchesRow.Statement (.bne rs rt imm) := fun _ =>
  ⟨⟨"BNE", 0xC4000000, 0xFC000000⟩, by decide, rfl, beq_iff_eq.mpr ((encodeI_masked 0x31 rs rt imm).trans (by decide))⟩

theorem EncodingMatchesRow.blt (rs rt : RegIx) (imm : Imm16) : EncodingMatchesRow.Statement (.blt rs rt imm) := fun _ =>
  ⟨⟨"BLT", 0xC8000000, 0xFC000000⟩, by decide, rfl, beq_iff_eq.mpr ((encodeI_masked 0x32 rs rt imm).trans (by decide))⟩

theorem EncodingMatchesRow.bge (rs rt : RegIx) (imm : Imm16) : EncodingMatchesRow.Statement (.bge rs rt imm) := fun _ =>
  ⟨⟨"BGE", 0xCC000000, 0xFC000000⟩, by decide, rfl, beq_iff_eq.mpr ((encodeI_masked 0x33 rs rt imm).trans (by decide))⟩

theorem EncodingMatchesRow.j (target : Target26) : EncodingMatchesRow.Statement (.j target) := fun _ =>
  ⟨⟨"J", 0xE0000000, 0xFC000000⟩, by decide, rfl, beq_iff_eq.mpr ((encodeJ_masked 0x38 target).trans (by decide))⟩

theorem EncodingMatchesRow.jal (target : Target26) : EncodingMatchesRow.Statement (.jal target) := fun _ =>
  ⟨⟨"JAL", 0xE4000000, 0xFC000000⟩, by decide, rfl, beq_iff_eq.mpr ((encodeJ_masked 0x39 target).trans (by decide))⟩

theorem EncodingMatchesRow.jr (rs : RegIx) : EncodingMatchesRow.Statement (.jr rs) := fun _ =>
  ⟨⟨"JR", 0xE8000000, 0xFC1FFFFF⟩, by decide, rfl, beq_iff_eq.mpr ((encodeJR_masked 0x3A rs).trans (by decide))⟩

end Sys2Proof.Laws
end

