-- ==== Sys2Proof/Laws/Tick.lean ====
section
/-! SUPPORT. What each stage of the pipeline does, and the cases of one tick. -/

namespace Sys2Proof.Machine

/-- A tick that answers a next state: ID made a candidate, and the state is `tickNext` of it (R292). -/
theorem tick_next {s t : State} (h : tick s = .next t) :
    ∃ candidate, idStage s.ifId (wbStage s.x s.memWb) = .ok candidate ∧ t = tickNext s candidate := by
  unfold tick at h
  split at h
  · cases h
  · exact ⟨_, ‹_›, (Host.Outcome.next.inj h).symm⟩

/-- A tick never refuses. -/
theorem tick_ne_refused (s : State) (reason : Refusal) : tick s ≠ .refused reason := by
  unfold tick
  split <;> simp

/-- ID's candidate: nothing for an empty input, else the decoded instruction with its operands (R212, R216). -/
theorem idStage_ok {ifId : Latch IfId} {x : RegFile} {candidate : Latch IdEx} (h : idStage ifId x = .ok candidate) :
    (ifId = .empty ∧ candidate = .empty) ∨
      ∃ f i, ifId = .occupied f ∧ decodeWord f.instr = some i ∧ candidate = .occupied (idCandidate f i x) := by
  unfold idStage at h
  split at h
  · exact .inl ⟨rfl, (Except.ok.inj h).symm⟩
  · split at h
    · cases h
    · exact .inr ⟨_, _, rfl, ‹_›, (Except.ok.inj h).symm⟩

/-- The one fault of a tick: a reserved word in `IF_ID` (R323). -/
theorem tick_fault {s : State} {reason : Fault} (h : tick s = .fault reason) :
    ∃ f, s.ifId = .occupied f ∧ decodeWord f.instr = none ∧ reason = .reservedInstruction f.pc f.instr := by
  unfold tick at h
  split at h
  · rename_i r hid
    obtain rfl := Host.Outcome.fault.inj h
    unfold idStage at hid
    split at hid
    · cases hid
    · split at hid
      · exact ⟨_, ‹_›, ‹_›, (Except.error.inj hid).symm⟩
      · cases hid
  · cases h

/-- The register file after WB: the written register takes the result, every other keeps its value (R222). -/
theorem wbStage_read (x : RegFile) (memWb : Latch MemWb) (q : RegIx) :
    RegFile.read (wbStage x memWb) q =
      match memWb with
      | .empty => RegFile.read x q
      | .occupied e => if e.regWrite = true ∧ q = e.dest ∧ e.dest ≠ 0 then e.result else RegFile.read x q := by
  cases memWb with
  | empty => rfl
  | occupied e =>
    cases hw : e.regWrite
    · simp [wbStage, hw]
    · simp only [wbStage, hw, if_true, RegFile.read_write, true_and]

/-- WB keeps slot 0 at 0 (R22). -/
theorem wbStage_slotZero {x : RegFile} (memWb : Latch MemWb) (h : x[0] = 0) : (wbStage x memWb)[0] = 0 := by
  unfold wbStage
  split
  · exact h
  · split
    · exact RegFile.write_slotZero _ _ _ h
    · exact h

/-- MEM keeps the canonical form of data memory. -/
theorem memStageMemory_wf {m : Memory} (exMem : Latch ExMem) (h : m.wf) : (memStageMemory m exMem).wf := by
  unfold memStageMemory
  split
  · exact h
  · split
    · exact Memory.write_wf h
    · exact h

@[simp] theorem memStageMemory_sizeLog2 (m : Memory) (exMem : Latch ExMem) :
    (memStageMemory m exMem).sizeLog2 = m.sizeLog2 := by
  unfold memStageMemory
  split
  · rfl
  · split <;> rfl

/-- The cases of the forwarding unit's selection (R261). -/
theorem forwardSelect_cases (exMem : Latch ExMem) (memWb : Latch MemWb) (r : RegIx) (reads : Bool) :
    (forwardSelect exMem memWb r reads = .REG ∧ (reads = false ∨ r = 0 ∨ (exMemWrites exMem r = false ∧ memWbWrites memWb r = false))) ∨
    (forwardSelect exMem memWb r reads = .EXMEM ∧ reads = true ∧ r ≠ 0 ∧ exMemWrites exMem r = true) ∨
    (forwardSelect exMem memWb r reads = .MEMWB ∧ reads = true ∧ r ≠ 0 ∧ exMemWrites exMem r = false ∧ memWbWrites memWb r = true) := by
  unfold forwardSelect Config.zeroReg
  split
  · rename_i h; simp at h; tauto
  · rename_i h
    simp at h
    split
    · rename_i he; simp [h, he]
    · rename_i he
      split
      · rename_i hm; simp [h, he, hm]
      · rename_i hm; simp [he, hm]

/-- The four cases of IF (R211). -/
theorem ifStage_cases (redirect : Option Word) (stall : Bool) (ifId : Latch IfId) (pc : Word) (fetched : Option Word) :
    (∃ target, redirect = some target ∧ ifStage redirect stall ifId pc fetched = (.empty, target)) ∨
    (redirect = none ∧ stall = true ∧ ifStage redirect stall ifId pc fetched = (ifId, pc)) ∨
    (∃ w, redirect = none ∧ stall = false ∧ fetched = some w ∧
      ifStage redirect stall ifId pc fetched = (.occupied { pc := pc, instr := w }, nextIndex pc)) ∨
    (redirect = none ∧ stall = false ∧ fetched = none ∧ ifStage redirect stall ifId pc fetched = (.empty, pc)) := by
  cases redirect <;> cases stall <;> cases fetched <;> simp [ifStage]

variable (s : State) (candidate : Latch IdEx)

@[simp] theorem tickNext_x : (tickNext s candidate).x = wbStage s.x s.memWb := rfl
@[simp] theorem tickNext_pc :
    (tickNext s candidate).pc = (ifStage (wires s).redirect (wires s).stall s.ifId s.pc s.fetch).2 := rfl
@[simp] theorem tickNext_dmem : (tickNext s candidate).dmem = memStageMemory s.dmem s.exMem := rfl
@[simp] theorem tickNext_imem : (tickNext s candidate).imem = s.imem := rfl
@[simp] theorem tickNext_ifId :
    (tickNext s candidate).ifId = (ifStage (wires s).redirect (wires s).stall s.ifId s.pc s.fetch).1 := rfl
@[simp] theorem tickNext_idEx : (tickNext s candidate).idEx = idExNext (wires s) candidate := rfl
@[simp] theorem tickNext_exMem :
    (tickNext s candidate).exMem = exStageLatch (wires s).fwdA (wires s).fwdB s.idEx s.exMem s.memWb := rfl
@[simp] theorem tickNext_memWb : (tickNext s candidate).memWb = memStageLatch s.dmem s.exMem := rfl
@[simp] theorem tickNext_history : (tickNext s candidate).history = s.history ++ [tickRecord s] := rfl
@[simp] theorem tickNext_cycles : (tickNext s candidate).cycles = s.cycles + 1 := rfl

/-! The wires of a tick. -/

/-- `flush` is the presence of a redirect (R268). -/
theorem wires_flush : (wires s).flush = (wires s).redirect.isSome := rfl

/-- With nothing in EX no transfer redirects (R219) and no load is waited for (R266). -/
theorem wires_of_idEx_empty (h : s.idEx = .empty) :
    (wires s).redirect = none ∧ (wires s).flush = false ∧ (wires s).stall = false := by
  simp [wires, exStageRedirect, stallOf, flushOf, loadUse, h]

/-- A redirect comes from an instruction in EX. -/
theorem idEx_occupied_of_redirect {target : Word} (h : (wires s).redirect = some target) : ∃ d, s.idEx = .occupied d := by
  cases hd : s.idEx with
  | empty => simp [(wires_of_idEx_empty s hd).1] at h
  | occupied d => exact ⟨d, rfl⟩

/-- The next state after a flush has nothing in IF/ID and ID/EX and the target in the pc (R269). -/
theorem tickNext_of_redirect {target : Word} (h : (wires s).redirect = some target) :
    (tickNext s candidate).idEx = .empty ∧ (tickNext s candidate).ifId = .empty ∧ (tickNext s candidate).pc = target := by
  simp [idExNext, wires_flush, ifStage, h]

end Sys2Proof.Machine
end

