-- ==== Sys2Proof/Tests/Slice0.lean ====
section
/-! SUPPORT. The model's own tests: words written out from the spec's encodings, one step per instruction with the results of
95_test_vectors.md, single ticks of its programs, the codec, and a witness for the hypotheses of each obligation. -/

open Sys2Proof Sys2Proof.Machine

namespace Sys2Proof.Tests

/-! Small states and what is read off one step. -/

/-- Reset with some registers and some data cells set. -/
def start (regs : List (RegIx × Word)) (cells : List (Word × Word)) : State :=
  cells.foldl (fun s c => s.memWrite c.1 c.2) (regs.foldl (fun s r => s.writeReg r.1 r.2) State.reset)

/-- A fact about the next state of an outcome. -/
def next (o : Host.Outcome State Fault Refusal) (check : State → Bool) : Bool :=
  match o with
  | .next t => check t
  | .fault _ => false
  | .refused _ => false

/-- Register `r` holds `v` after `i` runs in `s`. -/
def setsReg (i : Instr) (s : State) (r : RegIx) (v : Word) : Bool := next (exec i s) fun t => t.readReg r == v

/-- The pc is `p` after `i` runs at index 2 (95_test_vectors.md section 2.4). -/
def goesTo (i : Instr) (regs : List (RegIx × Word)) (p : Word) : Bool :=
  next (exec i ((start regs []).setPc 2)) fun t => t.pc == p

/-! Well-formedness: the one check refuses a shift amount above 31 in each shift-immediate instruction. -/

theorem test_wf_refuses_slli_32 : (Instr.slli 1 2 32).wf = false := by decide
theorem test_wf_refuses_srli_32 : (Instr.srli 1 2 32).wf = false := by decide
theorem test_wf_refuses_srai_minus_one : (Instr.srai 1 2 0xFFFF).wf = false := by decide
theorem test_wf_accepts_shift_bounds : (Instr.slli 1 2 0).wf = true ∧ (Instr.srai 1 2 31).wf = true := by decide
theorem test_encode_of_ill_formed_is_reserved : validWord (encode (.slli 1 2 32)) = false := by decide

/-! Decoding: every instruction from a word written out field by field (R92, R94). -/

theorem test_decode_nop_and_register :
    decodeWord 0b000000_00000_00000_00000_00000000000 = some .nop ∧
    decodeWord 0b000001_00010_00011_00001_00000000000 = some (.add 1 2 3) ∧
    decodeWord 0b000010_00010_00011_00001_00000000000 = some (.sub 1 2 3) ∧
    decodeWord 0b000011_00010_00011_00001_00000000000 = some (.and 1 2 3) ∧
    decodeWord 0b000100_00010_00011_00001_00000000000 = some (.or 1 2 3) ∧
    decodeWord 0b000101_00010_00011_00001_00000000000 = some (.xor 1 2 3) ∧
    decodeWord 0b000110_00010_00011_00001_00000000000 = some (.slt 1 2 3) ∧
    decodeWord 0b000111_00010_00011_00001_00000000000 = some (.sltu 1 2 3) ∧
    decodeWord 0b001000_00010_00011_00001_00000000000 = some (.sll 1 2 3) ∧
    decodeWord 0b001001_00010_00011_00001_00000000000 = some (.srl 1 2 3) ∧
    decodeWord 0b001010_00010_00011_00001_00000000000 = some (.sra 1 2 3) := by decide

theorem test_decode_immediate :
    decodeWord 0b010000_00010_00001_1000000000000011 = some (.addi 1 2 0x8003) ∧
    decodeWord 0b010001_00010_00001_1000000000000011 = some (.andi 1 2 0x8003) ∧
    decodeWord 0b010010_00010_00001_1000000000000011 = some (.ori 1 2 0x8003) ∧
    decodeWord 0b010011_00010_00001_1000000000000011 = some (.xori 1 2 0x8003) ∧
    decodeWord 0b010100_00010_00001_1000000000000011 = some (.slti 1 2 0x8003) ∧
    decodeWord 0b010101_00010_00001_00000000000_10011 = some (.slli 1 2 19) ∧
    decodeWord 0b010110_00010_00001_00000000000_10011 = some (.srli 1 2 19) ∧
    decodeWord 0b010111_00010_00001_00000000000_10011 = some (.srai 1 2 19) ∧
    decodeWord 0b011000_00000_00001_1000000000000011 = some (.lui 1 0x8003) := by decide

theorem test_decode_memory :
    decodeWord 0b100000_00010_00001_1000000000000011 = some (.load 1 2 0x8003) ∧
    decodeWord 0b100001_00010_00001_1000000000000011 = some (.store 1 2 0x8003) := by decide

theorem test_decode_control_transfer :
    decodeWord 0b110000_00010_00001_1000000000000011 = some (.beq 2 1 0x8003) ∧
    decodeWord 0b110001_00010_00001_1000000000000011 = some (.bne 2 1 0x8003) ∧
    decodeWord 0b110010_00010_00001_1000000000000011 = some (.blt 2 1 0x8003) ∧
    decodeWord 0b110011_00010_00001_1000000000000011 = some (.bge 2 1 0x8003) ∧
    decodeWord 0b111000_10000000000000000000000011 = some (.j 0x2000003) ∧
    decodeWord 0b111001_10000000000000000000000011 = some (.jal 0x2000003) ∧
    decodeWord 0b111010_00010_000000000000000000000 = some (.jr 2) := by decide

/-- 95_test_vectors.md section 3.5. -/
theorem test_reserved_words :
    ([0x2C000000, 0x3C000000, 0x64000000, 0x6C000000, 0x88000000, 0xD0000000, 0xEC000000, 0xFFFFFFFF, 0x00000001, 0x04221801,
      0x5422FFFF, 0x54220020, 0x60220001, 0xE8A00001, 0xE8010000] : List Word).all
        (fun w => decodeWord w == none && !validWord w && decodeText w == unknownText) = true ∧
    decodeWord 0x04000000 = some (.add 0 0 0) ∧ decodeWord 0xE0000000 = some (.j 0) := by decide

/-! One step of each instruction (95_test_vectors.md sections 2.1 to 2.4). -/

theorem test_nop : next (exec .nop (start [(1, 5)] [])) (fun t => t.pc == 1 && t.readReg 1 == 5) = true := by decide
theorem test_add : setsReg (.add 3 1 2) (start [(1, 0xFFFFFFFF), (2, 1)] []) 3 0 = true ∧
    setsReg (.add 1 1 1) (start [(1, 0x40000000)] []) 1 0x80000000 = true := by decide
theorem test_add_to_register_zero : setsReg (.add 0 1 2) (start [(1, 1), (2, 2)] []) 0 0 = true := by decide
theorem test_sub : setsReg (.sub 3 1 2) (start [(1, 5), (2, 7)] []) 3 0xFFFFFFFE = true ∧
    setsReg (.sub 1 1 1) (start [(1, 9)] []) 1 0 = true := by decide
theorem test_and : setsReg (.and 3 1 2) (start [(1, 0xF0F0F0F0), (2, 0x0FF00FF0)] []) 3 0x00F000F0 = true := by decide
theorem test_or : setsReg (.or 3 1 2) (start [(1, 0xF0F0F0F0), (2, 0x0FF00FF0)] []) 3 0xFFF0FFF0 = true := by decide
theorem test_xor : setsReg (.xor 3 1 2) (start [(1, 0xF0F0F0F0), (2, 0x0FF00FF0)] []) 3 0xFF00FF00 = true := by decide
theorem test_slt : setsReg (.slt 3 1 2) (start [(1, 0x80000000), (2, 0x7FFFFFFF)] []) 3 1 = true ∧
    setsReg (.slt 3 1 2) (start [(1, 0), (2, 0xFFFFFFFF)] []) 3 0 = true := by decide
theorem test_sltu : setsReg (.sltu 3 1 2) (start [(1, 0), (2, 0xFFFFFFFF)] []) 3 1 = true ∧
    setsReg (.sltu 3 1 2) (start [(1, 0x80000000), (2, 0x7FFFFFFF)] []) 3 0 = true := by decide
theorem test_sll : setsReg (.sll 3 1 2) (start [(1, 1), (2, 33)] []) 3 2 = true ∧
    setsReg (.sll 3 1 2) (start [(1, 0x12345678), (2, 32)] []) 3 0x12345678 = true := by decide
theorem test_srl : setsReg (.srl 3 1 2) (start [(1, 0x80000000), (2, 0xFFFFFFFF)] []) 3 1 = true := by decide
theorem test_sra : setsReg (.sra 3 1 2) (start [(1, 0xF0000000), (2, 4)] []) 3 0xFF000000 = true ∧
    setsReg (.sra 3 1 2) (start [(1, 0x80000000), (2, 32)] []) 3 0x80000000 = true := by decide
theorem test_addi : setsReg (.addi 2 1 0xFFFF) (start [(1, 5)] []) 2 4 = true ∧
    setsReg (.addi 2 1 0x7FFF) (start [(1, 0xFFFFFFFF)] []) 2 0x00007FFE = true := by decide
theorem test_andi : setsReg (.andi 2 1 0xFFFF) (start [(1, 0xFFFFFFFF)] []) 2 0x0000FFFF = true := by decide
theorem test_ori : setsReg (.ori 2 1 0xBEEF) (start [(1, 0xDEAD0000)] []) 2 0xDEADBEEF = true := by decide
theorem test_xori : setsReg (.xori 2 1 0xFFFF) (start [(1, 0x12345678)] []) 2 0x1234A987 = true := by decide
theorem test_slti : setsReg (.slti 2 1 0x8000) (start [(1, 0x80000000)] []) 2 1 = true ∧
    setsReg (.slti 2 1 0xFFFF) (start [] []) 2 0 = true := by decide
theorem test_slli : setsReg (.slli 2 1 31) (start [(1, 1)] []) 2 0x80000000 = true := by decide
theorem test_srli : setsReg (.srli 2 1 4) (start [(1, 0xF0000000)] []) 2 0x0F000000 = true := by decide
theorem test_srai : setsReg (.srai 2 1 31) (start [(1, 0x80000000)] []) 2 0xFFFFFFFF = true ∧
    setsReg (.srai 2 1 31) (start [(1, 0x7FFFFFFF)] []) 2 0 = true := by decide
theorem test_lui : setsReg (.lui 2 0xFFFF) (start [(2, 5)] []) 2 0xFFFF0000 = true := by decide
theorem test_load_wraps : setsReg (.load 1 0 0xFFFF) (start [] [(255, 0x55)]) 1 0x55 = true ∧
    setsReg (.load 2 1 4) (start [(1, 0xFFFFFFFE)] [(2, 0x66)]) 2 0x66 = true := by decide
theorem test_load_base_is_destination : setsReg (.load 1 1 0) (start [(1, 3)] [(3, 0x1234)]) 1 0x1234 = true ∧
    setsReg (.load 0 0 0) (start [] [(0, 7)]) 0 0 = true := by decide
theorem test_store : next (exec (.store 2 3 0xFFFF) (start [(2, 15), (3, 9)] []))
    (fun t => t.dmem.readCell 8 == 15 && t.dmem.cells == [(8, 15)]) = true := by decide
theorem test_store_register_zero_and_wrap :
    next (exec (.store 0 0 4) (start [] [(4, 0xFFFFFFFF)])) (fun t => t.dmem.cells == []) = true ∧
    next (exec (.store 2 1 0x7FFF) (start [(1, 0xFFFFFFFF), (2, 0xCAFE)] [])) (fun t => t.dmem.cells == [(254, 0xCAFE)]) =
      true := by decide
theorem test_beq : goesTo (.beq 1 2 5) [(1, 3), (2, 3)] 7 = true ∧ goesTo (.beq 1 2 5) [(1, 3), (2, 4)] 3 = true := by decide
theorem test_beq_backward_and_wrap : goesTo (.beq 0 0 0xFFFE) [] 0 = true ∧ goesTo (.beq 0 0 0x8000) [] 0xFFFF8002 = true := by
  decide
theorem test_bne : goesTo (.bne 1 2 5) [(1, 3), (2, 4)] 7 = true ∧ goesTo (.bne 1 2 5) [(1, 3), (2, 3)] 3 = true := by decide
theorem test_blt : goesTo (.blt 1 2 5) [(1, 0xFFFFFFFF)] 7 = true ∧
    goesTo (.blt 1 2 5) [(1, 0x7FFFFFFF), (2, 0x80000000)] 3 = true := by decide
theorem test_bge : goesTo (.bge 1 2 5) [(1, 4), (2, 4)] 7 = true ∧ goesTo (.bge 1 2 5) [(1, 0x80000000)] 3 = true := by decide
theorem test_j : goesTo (.j 67108863) [] 0x03FFFFFF = true := by decide
theorem test_jal : goesTo (.jal 100) [] 100 = true ∧ setsReg (.jal 100) ((start [] []).setPc 2) 31 3 = true := by decide
theorem test_jr : goesTo (.jr 5) [(5, 0x12345678)] 0x12345678 = true ∧ goesTo (.jr 0) [] 0 = true := by decide

/-! The host's two reading points. -/

theorem test_table_word : decodeTableWord 32 0x04211000 = some (.add 2 1 1) ∧ decodeTableWord 32 0x2C000000 = none := by decide
theorem test_fetch_word_runs_first : next (step (State.reset.withFetchWord 32 0x40010007))
    (fun t => t.readReg 1 == 7 && t.pc == 1) = true := by decide
theorem test_reserved_word_faults : step (State.reset.withFetchWord 32 0x2C000000) = .fault (.reservedInstruction 0 0x2C000000) :=
  rfl
theorem test_step_holds_past_the_end : step State.reset = .next State.reset := rfl

/-! Single ticks of the programs of 95_test_vectors.md, from the states its tick tables describe. -/

/-- The candidate for `ID_EX` of the word `w` at index `p`, with operands read from the registers of `s`. -/
def decoded (s : State) (p w : Word) (i : Instr) : Latch IdEx := .occupied (idCandidate { pc := p, instr := w } i s.x)

/-- P1 at the start of tick 2: the LOAD in EX, the ADD in ID. -/
def loadUseState : State :=
  { start [] [(0, 7)] with
    imem := [0x80010000, 0x04211000], pc := 2, ifId := .occupied { pc := 1, instr := 0x04211000 },
    idEx := decoded State.reset 0 0x80010000 (.load 1 0 0) }

/-- P1 at the start of tick 4: the ADD in EX with the stale operands 0, the LOAD in WB with the result 7. -/
def loadedState : State :=
  { start [] [(0, 7)] with
    imem := [0x80010000, 0x04211000], pc := 2, idEx := decoded State.reset 1 0x04211000 (.add 2 1 1),
    memWb := .occupied { pc := 0, instr := 0x80010000, dest := 1, regWrite := true, result := 7 } }

/-- P2b at the start of tick 4: two producers of register 1 in flight. -/
def twoProducersState : State :=
  { start [] [] with
    imem := [0x40010001, 0x4021000A, 0x04211000], pc := 3, idEx := decoded State.reset 2 0x04211000 (.add 2 1 1),
    exMem := .occupied { pc := 1, instr := 0x4021000A, dest := 1, regWrite := true, memRead := false, memWrite := false,
                         aluResult := 11, storeData := 0 },
    memWb := .occupied { pc := 0, instr := 0x40010001, dest := 1, regWrite := true, result := 1 } }

/-- V3 at the start of tick 3: an ADD to register 0 in MEM with the result 10, its follower reads register 0. -/
def zeroProducerState : State :=
  { start [(1, 5)] [] with
    imem := [0x04210000, 0x04001000], pc := 2, idEx := decoded State.reset 1 0x04001000 (.add 2 0 0),
    exMem := .occupied { pc := 0, instr := 0x04210000, dest := 0, regWrite := true, memRead := false, memWrite := false,
                         aluResult := 10, storeData := 5 } }

/-- P3 at the start of tick 3: the taken BEQ in EX, index 2 in ID, index 3 next. -/
def flushState : State :=
  { start [] [] with
    imem := [0x40010001, 0xC0000003, 0x40020002, 0x40030003, 0x40040004], pc := 3,
    ifId := .occupied { pc := 2, instr := 0x40020002 }, idEx := decoded State.reset 1 0xC0000003 (.beq 0 0 3),
    exMem := .occupied { pc := 0, instr := 0x40010001, dest := 1, regWrite := true, memRead := false, memWrite := false,
                         aluResult := 1, storeData := 0 } }

/-- A NOP in IF/ID and nothing else in flight; the pc is past the end. -/
def nopState : State := { start [] [] with imem := [0], pc := 1, ifId := .occupied { pc := 0, instr := 0 } }

/-- A NOP in every stage. -/
def allNopState : State :=
  { start [] [] with
    imem := [0, 0, 0, 0, 0], pc := 4, ifId := .occupied { pc := 3, instr := 0 }, idEx := decoded State.reset 2 0 .nop,
    exMem := .occupied (exPublish (idCandidate { pc := 1, instr := 0 } .nop State.reset.x) 0 0),
    memWb := .occupied { pc := 0, instr := 0, dest := 0, regWrite := false, result := 0 } }

/-- A STORE of 5 to the cell of the address 256, which is cell 0, in MEM. -/
def storeState : State :=
  { start [] [(0, 7)] with
    imem := [0x84010100], pc := 1,
    exMem := .occupied { pc := 0, instr := 0x84010100, dest := 0, regWrite := false, memRead := false, memWrite := true,
                         aluResult := 256, storeData := 5 } }

/-- The last tick of a run: only WB is occupied, with a write of register 1 (P2 in tick 6 has this shape). -/
def drainingState : State :=
  { start [] [] with
    imem := [0x40010009], pc := 1, memWb := .occupied { pc := 0, instr := 0x40010009, dest := 1, regWrite := true, result := 9 } }

/-- V16 in tick 4: the consumer is in ID in the tick its producer is in WB. -/
def writeBackState : State :=
  { start [] [] with
    imem := [0x40010007, 0, 0, 0x04211000], pc := 4, ifId := .occupied { pc := 3, instr := 0x04211000 },
    memWb := .occupied { pc := 0, instr := 0x40010007, dest := 1, regWrite := true, result := 7 } }

/-- A reserved word in IF/ID. -/
def reservedState : State := { start [] [] with imem := [0x2C000000], pc := 1, ifId := .occupied { pc := 0, instr := 0x2C000000 } }

theorem test_tick_stall : (wires loadUseState).stall = true ∧
    next (tick loadUseState) (fun t => t.idEx == .empty && t.ifId == loadUseState.ifId && t.pc == 2 &&
      (tickRecord loadUseState).atID == { pc := some 1, instr := 0x04211000, genuine := false } &&
      (tickRecord loadUseState).atIF == idleRecord) = true := by decide
theorem test_tick_loaded_value : (wires loadedState).fwdA = .MEMWB ∧ (wires loadedState).fwdB = .MEMWB ∧
    next (tick loadedState) (fun t => t.readReg 1 == 7 &&
      t.exMem == .occupied { pc := 1, instr := 0x04211000, dest := 2, regWrite := true, memRead := false, memWrite := false,
                             aluResult := 14, storeData := 7 }) = true := by decide
theorem test_tick_priority : (wires twoProducersState).fwdA = .EXMEM ∧
    next (tick twoProducersState) (fun t =>
      t.exMem == .occupied { pc := 2, instr := 0x04211000, dest := 2, regWrite := true, memRead := false, memWrite := false,
                             aluResult := 22, storeData := 11 }) = true := by decide
theorem test_tick_register_zero : (wires zeroProducerState).fwdA = .REG ∧
    next (tick zeroProducerState) (fun t =>
      t.exMem == .occupied { pc := 1, instr := 0x04001000, dest := 2, regWrite := true, memRead := false, memWrite := false,
                             aluResult := 0, storeData := 0 }) = true := by decide
theorem test_tick_flush : (wires flushState).redirect = some 4 ∧
    next (tick flushState) (fun t => t.idEx == .empty && t.ifId == .empty && t.pc == 4) = true := by decide
theorem test_tick_store_wraps : next (tick storeState) (fun t => t.dmem.cells == [(0, 5)]) = true := by decide
theorem test_tick_write_before_read : next (tick writeBackState) (fun t =>
    t.idEx == .occupied { pc := 3, instr := 0x04211000, rs := 1, rt := 1, dest := 2, imm := 0, jtarget := 0,
                          sig := Control.register .ADD, a := 7, b := 7 }) = true := by decide
theorem test_tick_reserved_word : tick reservedState = .fault (.reservedInstruction 0 0x2C000000) := rfl
theorem test_ordered_tick_agrees : next (tickOrdered flushState) (fun t =>
    next (tick flushState) fun u => t.pc == u.pc && t.ifId == u.ifId && t.idEx == u.idEx && t.exMem == u.exMem &&
      t.memWb == u.memWb && t.history == u.history) = true := by decide
theorem test_last_tick : next (tick drainingState) (fun t => t.readReg 1 == 9 && !t.busy) = true := by decide

/-- How a run ended, as a number of cycles. -/
def cyclesOf (e : RunEnd) : Option Nat :=
  match e with
  | .finished t => some t.cycles
  | _ => none

/-- A launch with 256 words and every default. -/
def launched (imem : List Word) : State := State.launch imem 8 Config.defaultRegInit []

/-- V1, V2 and V15 of 95_test_vectors.md. -/
theorem test_cycles_of_short_runs : cyclesOf (run 1 (launched [])) = some 1 ∧ cyclesOf (run 5 (launched [0])) = some 5 ∧
    cyclesOf (run 5 (launched [0xE0000005])) = some 5 := by decide

/-! The codec (95_test_vectors.md sections 3.1 to 3.4). -/

theorem test_encode_line : encodeLine "ADD r2, r1, r1".toList = .ok 0x04211000 := rfl
theorem test_encode_memory_line : encodeLine "STORE r2, [r3-1]".toList = .ok 0x8462FFFF := rfl
theorem test_encode_after_stripping : encodeLine (stripLine "  add R2 , r1,r1   # comment".toList) = .ok 0x04211000 := rfl
theorem test_encode_unknown_mnemonic : encodeLine "FOOBAR r1, r2".toList = .error .InvalidInstruction := rfl
theorem test_encode_count : encodeLine "ADD r1, r2".toList = .error .InvalidArgument := rfl
theorem test_encode_empty_token : encodeLine "ADD r1,,r2".toList = .error .InvalidArgument := rfl
theorem test_encode_shape_before_range : encodeLine "ADD r32, r1, x".toList = .error .InvalidArgument := rfl
theorem test_encode_range : encodeLine "ADDI r1, r0, 0x8000".toList = .error .FieldOverflow := rfl
theorem test_decode_text : decodeText 0x4021FFFF = "ADDI r1, r1, -1".toList ∧ decodeText 0x80410010 = "LOAD r1, [r2+16]".toList := by
  decide
theorem test_load_program : loadProgram ["# sum".toList, [], "ADD r1, r2, r3".toList] = .ok [0x04430800] := rfl
theorem test_load_error : loadProgram ["# sum".toList, "FOOBAR r1, r2".toList] =
    .error { line := 2, text := "FOOBAR r1, r2".toList, kind := .InvalidInstruction } := rfl

/-! Invariants of the states above. -/

theorem test_loadUseState_inv : loadUseState.PipeInv :=
  ⟨⟨by decide, by decide⟩, ⟨by decide, ⟨.load 1 0 0, by decide, by decide⟩, by decide⟩, trivial, trivial, trivial⟩

theorem test_loadedState_inv : loadedState.PipeInv :=
  ⟨trivial, ⟨by decide, ⟨.add 2 1 1, by decide, by decide⟩, by decide⟩, trivial,
    ⟨by decide, .load 1 0 0, by decide, by decide, by decide⟩, trivial⟩

theorem test_twoProducersState_inv : twoProducersState.PipeInv :=
  ⟨trivial, ⟨by decide, ⟨.add 2 1 1, by decide, by decide⟩, by decide⟩,
    ⟨by decide, .addi 1 1 10, by decide, by decide, by decide, by decide, by decide⟩,
    ⟨by decide, .addi 1 0 1, by decide, by decide, by decide⟩, nofun⟩

theorem test_flushState_inv : flushState.PipeInv :=
  ⟨⟨by decide, by decide⟩, ⟨by decide, ⟨.beq 0 0 3, by decide, by decide⟩, by decide⟩,
    ⟨by decide, .addi 1 0 1, by decide, by decide, by decide, by decide, by decide⟩, trivial, nofun⟩

theorem test_nopState_inv : nopState.PipeInv := ⟨⟨by decide, by decide⟩, trivial, trivial, trivial, trivial⟩

theorem test_flushState_archInv : flushState.ArchInv :=
  ⟨by decide, by decide, by simp [flushState, Config.maxImemLen], List.all_eq_true.mp (by decide)⟩

theorem test_launched_nop : (launched [0]).Launched := 
  ⟨⟨rfl, rfl, rfl, rfl⟩, rfl, rfl, by simp [launched, State.launch, Config.maxImemLen], List.all_eq_true.mp (by decide)⟩

/-! Witnesses: states and operands that meet the hypotheses of each obligation, clause by clause where the clauses differ. -/

theorem test_witness_DecodeInvertsEncode : (Instr.srai 31 31 31).wf = true ∧ decodeWord (encode (.srai 31 31 31)) = some (.srai 31 31 31) := by
  decide
theorem test_witness_EncodeInvertsDecode : decodeWord 0xE7FFFFFF = some (.jal 0x3FFFFFF) ∧ encode (.jal 0x3FFFFFF) = 0xE7FFFFFF := by
  decide
theorem test_witness_ValidWordsAreTheImageOfEncode : validWord 0x04211000 = true ∧ decodeText 0x04211000 = "ADD r2, r1, r1".toList := by decide
theorem test_witness_DecoderFollowsOpcodeMap_row : ∃ r ∈ opcodeTable, (0x5422001F : Word) &&& r.mask = r.pattern := by decide
theorem test_witness_DecoderFollowsOpcodeMap_reserved : ∀ r ∈ opcodeTable, (0x54220020 : Word) &&& r.mask ≠ r.pattern := by decide
theorem test_witness_WordReadsItsSourceOperands : (Instr.store 1 2 0).wf = true ∧ wordReads (encode (.store 1 2 0)) 1 = true ∧
    wordReads (encode (.load 1 2 0)) 1 = false := by decide
theorem test_witness_StepRunsTheDecodedInstruction :
    flushState.fetch = some 0x40030003 ∧ decodeWord 0x40030003 = some (.addi 3 0 3) ∧
    ({ reservedState with pc := 0 } : State).fetch = some 0x2C000000 ∧ decodeWord 0x2C000000 = none ∧
    nopState.imemLen ≤ nopState.pc.toNat := by decide
theorem test_witness_PlacedWordRunsNext : decodeWord 0xFFFFFFFF = none ∧ decodeWord 0xE8000000 = some (.jr 0) ∧
    (flushState.withFetchWord 32 0xE8000000).imem = [0x40010001, 0xC0000003, 0x40020002, 0xE8000000, 0x40040004] := by decide
theorem test_witness_NopOnlyAdvances : (wires allNopState).flush = false ∧ (wires allNopState).stall = false ∧
    allNopState.fetch = some 0 ∧
    next (tick allNopState) (fun t => t.ifId == .occupied { pc := 4, instr := 0 } && t.idEx != .empty && t.exMem != .empty &&
      t.memWb != .empty && (tickRecord allNopState).atIF.genuine && (tickRecord allNopState).atWB.genuine) = true ∧
    opcodeOf 0x00000001 = 0 ∧ decodeWord 0x00000001 = none := by decide
theorem test_witness_ImmediateAluInstructions : (31 : Imm16).toNat < 32 ∧ (0 : Imm16).toNat < 32 ∧
    opcodeOf 0x58220020 = 0x16 ∧ 32 ≤ (immOf 0x58220020).toNat ∧ decodeWord 0x58220020 = none := by decide
theorem test_witness_LoadUpperImmediate : opcodeOf 0x60220001 = 0x18 ∧ rsOf 0x60220001 ≠ 0 ∧ decodeWord 0x60220001 = none := by decide
theorem test_witness_StoreWritesOneCell : (start [(2, 5)] [(0, 7), (255, 8)]).dmem.wf := by decide
theorem test_witness_ConditionalBranches : signed 0xFFFFFFFF < signed 0 ∧ ¬signed 0x7FFFFFFF < signed 0x80000000 := by decide
theorem test_witness_EffectDependsOnSourceOperandsOnly :
    (∀ r ∈ sourceRegs (.add 3 1 2), RegFile.read (start [(1, 5), (2, 6), (3, 7)] []).x r = (start [(1, 5), (2, 6)] []).readReg r) ∧
    (start [(1, 5), (2, 6), (3, 7)] []).x ≠ (start [(1, 5), (2, 6)] []).x := by decide
theorem test_witness_RegisterZeroIsWiredToZero : zeroProducerState.x[0] = 0 ∧
    next (tick zeroProducerState) (fun t => (snapshot t).x[0] == 0) = true ∧
    next (exec (.lui 0 1) State.reset) (fun t => (snapshot t).x[0] == 0) = true := by decide
theorem test_witness_MemoryReadAfterWrite_one_cell : ({ sizeLog2 := 0, cells := [(0, 1)] } : Memory).wf ∧
    (({ sizeLog2 := 0, cells := [(0, 1)] } : Memory).write 0xFFFFFFFF 9).read 0 = 9 := by decide
theorem test_witness_MemoryReadAfterWrite_all_cells : ({ sizeLog2 := 32, cells := [(5, 1)] } : Memory).wf ∧
    (({ sizeLog2 := 32, cells := [(5, 1)] } : Memory).write 0xFFFFFFFF 9).read 5 = 1 := by decide
theorem test_witness_CanonicalMemoryIsDeterminedByItsReads :
    (({ sizeLog2 := 0, cells := [] } : Memory).write 3 9).wf ∧ (({ sizeLog2 := 0, cells := [(0, 1)] } : Memory).write 0 9).wf ∧
    ({ sizeLog2 := 0, cells := [] } : Memory).write 3 9 = ({ sizeLog2 := 0, cells := [(0, 1)] } : Memory).write 0 9 := by decide
theorem test_witness_LaunchFollowsItsParameters :
    (Memory.init 1 [7, 0, 9]).readCell 0 = 7 ∧ (Memory.init 1 [7, 0, 9]).readCell 1 = 0 ∧ (Memory.init 1 [7]).readCell 1 = 0 ∧
    (Memory.init 1 [7, 0, 9]).cells = [(0, 7)] := by decide
theorem test_witness_LaunchMeetsTheInvariants : ([0, 0x04211000] : List Word).length ≤ Config.maxImemLen ∧
    ∀ w ∈ ([0, 0x04211000] : List Word), validWord w = true := ⟨by simp [Config.maxImemLen], List.all_eq_true.mp (by decide)⟩
theorem test_witness_StepKeepsTheArchitecturalInvariant : flushState.ArchInv := test_flushState_archInv
theorem test_witness_TickKeepsTheMachineInvariant : flushState.ArchInv ∧ flushState.PipeInv :=
  ⟨test_flushState_archInv, test_flushState_inv⟩
theorem test_witness_FetchUnitHasFourCases :
    (wires flushState).redirect = some 4 ∧
    ((wires loadUseState).redirect = none ∧ (wires loadUseState).stall = true) ∧
    ((wires (launched [0])).redirect = none ∧ (wires (launched [0])).stall = false ∧ (launched [0]).pc.toNat < (launched [0]).imemLen) ∧
    ((wires nopState).redirect = none ∧ (wires nopState).stall = false ∧ nopState.imemLen ≤ nopState.pc.toNat) ∧
    next (tick (launched [0])) (fun t => t.ifId == .occupied { pc := 0, instr := 0 }) = true ∧
    next (tick nopState) (fun t => t.ifId == .empty && t.pc == 1) = true := by decide
theorem test_witness_ReservedWordInDecoderFaults : reservedState.ifId = .occupied { pc := 0, instr := 0x2C000000 } ∧
    validWord 0x2C000000 = false ∧ validWord 0x04211000 = true := by decide
theorem test_witness_RegisterReadSeesSameTickWriteBack :
    (wires writeBackState).flush = false ∧ (wires writeBackState).stall = false ∧
    next (tick writeBackState) (fun t => t.idEx != .empty) = true := by decide
theorem test_witness_TransferResolution :
    (idCandidate { pc := 0, instr := 0 } (.blt 1 2 5) State.reset.x).sig.ctl = .BLT ∧
    (idCandidate { pc := 0, instr := 0 } (.jal 5) State.reset.x).sig.ctl = .J ∧
    (idCandidate { pc := 0, instr := 0 } (.jr 5) State.reset.x).sig.ctl = .JR ∧
    State.reset.idEx = .empty ∧ exRedirect (idCandidate { pc := 7, instr := 0 } (.bge 1 2 0xFFFE) State.reset.x) 4 4 = some 5 := by
  decide
theorem test_witness_ExecuteStagePublishes : State.reset.idEx = .empty ∧ (wires twoProducersState).fwdB = .EXMEM ∧
    next (tick twoProducersState) (fun t => t.exMem != .empty) = true := by decide
theorem test_witness_MemoryStageAccess : storeState.dmem.wf ∧ loadUseState.dmem.wf ∧ loadUseState.exMem = .empty ∧
    next (tick storeState) (fun t => t.dmem.readCell 0 == 5) = true := by decide
theorem test_witness_WriteBackArbiter : loadUseState.memWb = .empty ∧
    next (tick drainingState) (fun t => t.readReg 1 == 9) = true := by decide
theorem test_witness_EmptyInputsDoNothing : State.reset.memWb = .empty ∧ State.reset.exMem = .empty ∧ State.reset.idEx = .empty ∧
    State.reset.ifId = .empty ∧ State.reset.imemLen ≤ State.reset.pc.toNat ∧ (wires State.reset).stall = false ∧
    next (tick State.reset) (fun t => t.cycles == 1) = true := by decide
theorem test_witness_ForwardingPriorityAndZero :
    forwardSelect twoProducersState.exMem twoProducersState.memWb 1 true = .EXMEM ∧
    operandMux .EXMEM 0 twoProducersState.exMem twoProducersState.memWb = 11 := by decide
theorem test_witness_ForwardingDeliversTheProgramOrderValue :
    twoProducersState.PipeInv ∧ loadedState.PipeInv ∧ RegFile.read twoProducersState.drainedRegs 1 = 11 ∧
    RegFile.read loadedState.drainedRegs 1 = 7 := ⟨test_twoProducersState_inv, test_loadedState_inv, by decide, by decide⟩
theorem test_witness_StallConditionIsLoadUse : loadUseState.PipeInv ∧
    loadUseState.ifId = .occupied { pc := 1, instr := encode (.add 2 1 1) } ∧ (wires loadUseState).stall = true :=
  ⟨test_loadUseState_inv, by decide, by decide⟩
theorem test_witness_StallLastsOneTick : loadUseState.PipeInv ∧ (wires loadUseState).stall = true ∧
    next (tick loadUseState) (fun t => next (tick t) fun u => (wires u).fwdA == .MEMWB) = true :=
  ⟨test_loadUseState_inv, by decide, by decide⟩
theorem test_witness_FlushDiscardsTheTwoYoungerSlots : (wires flushState).redirect = some 4 ∧
    next (tick flushState) (fun t => next (tick t) fun u => u.ifId == .occupied { pc := 4, instr := 0x40040004 }) = true := by decide
theorem test_witness_StallAndFlushNeverCoincide : loadUseState.PipeInv ∧
    loadUseState.idEx = .occupied (idCandidate { pc := 0, instr := 0x80010000 } (.load 1 0 0) State.reset.x) ∧
    (controlOf (.load 1 0 0)).memRead = true := ⟨test_loadUseState_inv, rfl, rfl⟩
theorem test_witness_ActivityRecordsOfATick :
    next (tick flushState) (fun t => t.cycles == 1 && t.history == [{
      atIF := idleRecord, atID := { pc := some 2, instr := 0x40020002, genuine := false },
      atEX := { pc := some 1, instr := 0xC0000003, genuine := true },
      atMEM := { pc := some 0, instr := 0x40010001, genuine := true }, atWB := idleRecord }]) = true := by decide
theorem test_witness_TerminationTestReadsDrainedStages :
    next (tick drainingState) (fun t => !t.busy) = true ∧ next (tick loadUseState) (fun t => t.busy) = true := by decide
theorem test_witness_FinishedRunIsDrained : cyclesOf (run 1 drainingState) = some 1 := by decide
/-- The driver's ticks of the one-tick program (V1): without a decision it pauses after its only tick; with one it has finished. -/
theorem test_pause_after_the_last_tick : runHosted false 1 [] (launched []) = .paused (tickNext (launched []) .empty) ∧
    cyclesOf (runHosted false 1 [.continue] (launched [])) = some 1 ∧
    runHosted false 1 [.quit] (launched []) = .quit (tickNext (launched []) .empty) := ⟨rfl, by decide, rfl⟩
/-- V2 has five ticks and so five pauses: four decisions do not finish it. -/
theorem test_five_pauses_for_five_cycles :
    cyclesOf (runHosted false 5 [.step, .step, .step, .step] (launched [0])) = none ∧
    cyclesOf (runHosted false 5 [.step, .step, .step, .step, .step] (launched [0])) = some 5 := by decide
theorem test_witness_PausingOnlyTruncatesARun : Decision.quit ∉ [Decision.step] ∧ [Decision.step].length < 2 ∧
    (match run 1 (launched [0]) with | .running u => next (tick u) (fun t => t.cycles == 2) | _ => false) = true ∧
    (match runHosted false 2 [.step, .quit] (launched [0]) with | .quit t => t.cycles == 2 | _ => false) = true := by decide
/-- R42: the snapshot after a tick has that tick's count, its record and the program. -/
theorem test_snapshot_shows_all_state : next (tick flushState) (fun t => (snapshot t).cycles == 1 &&
    (snapshot t).history == [tickRecord flushState] && (snapshot t).imem == flushState.imem && (snapshot t).exMemPc == some 1 &&
    (snapshot t).ifIdPc == none) = true := by decide
theorem test_witness_HostSeesAllStateAndProgramsDoNot : next (tick flushState) (fun t =>
    (snapshot t).activity == some (tickRecord flushState)) = true ∧ (snapshot flushState).ifIdPc = some 2 ∧
    (snapshot flushState).idExPc = some 1 ∧ (snapshot flushState).exMemPc = some 0 ∧ (snapshot allNopState).memWbPc = some 0 := by
  decide
theorem test_witness_TickRefinesTheSequentialMachine : loadUseState.PipeInv ∧ nopState.PipeInv ∧
    next (tick loadUseState) (fun t => t.idEx == .empty) = true ∧ next (tick nopState) (fun t => t.idEx != .empty) = true :=
  ⟨test_loadUseState_inv, test_nopState_inv, by decide, by decide⟩
theorem test_witness_PipelineImplementsTheSequentialSemantics : (launched [0]).Launched ∧
    (seqRun 1 (launched [0])).isSome = true ∧ cyclesOf (run 5 (launched [0])) = some 5 := ⟨test_launched_nop, by decide, by decide⟩
theorem test_witness_CycleCountOfATerminatingRun : (launched [0]).Launched ∧ cyclesOf (run 5 (launched [0])) = some 5 ∧
    lastIsTaken 5 (launched [0]) = false ∧ lastIsTaken 5 (launched [0xE0000005]) = true :=
  ⟨test_launched_nop, by decide, by decide, by decide⟩
theorem test_witness_CodecRoundTrip : validWord 0x8462FFFF = true ∧ assembleLine "STORE r2, [r3-1]".toList = .ok (.store 2 3 0xFFFF) :=
  ⟨by decide, rfl⟩
theorem test_witness_EncoderChecksInOrder :
    (findTemplate (mnemonicToken "FOOBAR".toList)).isNone = true ∧ (findTemplate (mnemonicToken "jr r31".toList)).isSome = true ∧
    parseOperands [.register] (operandTokens "jr r31".toList) = some [.register 31] ∧
    operandsInRange [.register] [.register 31] = true ∧ operandsInRange [.register] [.register 32] = false := by decide
theorem test_witness_IntegerOperandRanges :
    encodeLine (sourceLine "LOAD" [renderRegister 1, memoryToken 3 (-32768)]) = .ok 0x80618000 ∧
    encodeLine (sourceLine "LOAD" [renderRegister 1, memoryToken 3 (-32769)]) = .error .FieldOverflow ∧
    encodeLine (sourceLine "JAL" [renderInt 67108863]) = .ok 0xE7FFFFFF ∧
    encodeLine (sourceLine "JAL" [renderInt 67108864]) = .error .FieldOverflow := ⟨rfl, rfl, rfl, rfl⟩
theorem test_witness_RegisterOperandRanges :
    encodeLine (sourceLine "ADD" [registerToken 31, registerToken 1, registerToken 1]) = .ok 0x0421F800 ∧
    encodeLine (sourceLine "ADD" [registerToken 32, registerToken 1, registerToken 1]) = .error .FieldOverflow ∧
    encodeLine (sourceLine "JR" [registerToken 31]) = .ok 0xEBE00000 := ⟨rfl, rfl, rfl⟩
theorem test_witness_LoaderAbortsOnTheFirstBadLine : loadProgram ["NOP".toList, "X".toList] =
    .error { line := 2, text := "X".toList, kind := .InvalidInstruction } ∧ loadProgram ["NOP".toList] = .ok [0] := ⟨rfl, rfl⟩
theorem test_witness_LoadedProgramsNeverFault : runProgram ["# nothing".toList] 8 Config.defaultRegInit [] 0 =
    .ok (.running (launched [])) := rfl

end Sys2Proof.Tests
end

section
/-! PROOFS. The state and its invariants (10_state.md): which words decode, the effect of one instruction, what a tick puts into
each latch, the launched state; then the obligations of that family. -/

namespace Sys2Proof.Machine

/-! Valid words (30_encoding.md R96). -/

/-- `valid_word` holds of exactly the words that decode: one case per opcode, and the opcodes without a row (R94, R96). -/
theorem decodeWord_isSome (w : Word) : (decodeWord w).isSome = validWord w := by
  rw [Bool.eq_iff_iff]
  unfold decodeWord validWord
  split
  case h_30 =>
    simp only [imp_false] at *
    simp [*, show ¬(1 ≤ (opcodeOf w).toNat ∧ (opcodeOf w).toNat ≤ 10) by omega]
  all_goals simp [*, decodeN, decodeR, decodeI, decodeIH, decodeL, decodeB, decodeJ, decodeJR, Option.isSome_ite]

/-- Every word of a legal instruction memory decodes (R30). -/
theorem State.ArchInv.decodes {s : State} (hs : s.ArchInv) {k : Nat} {w : Word} (hw : s.imem[k]? = some w) :
    ∃ i, decodeWord w = some i := by
  obtain ⟨-, -, -, hvalid⟩ := hs
  exact Option.isSome_iff_exists.mp ((decodeWord_isSome w).trans (hvalid w (List.mem_of_getElem? hw)))

/-! The effect of one instruction. -/

/-- What an instruction can do (files 40 to 43): it sets the pc, and beside that writes its destination register, or one address
of data memory, or nothing. It always answers a next state. -/
theorem exec_cases (i : Instr) (s : State) :
    (∃ v target, (controlOf i).regWrite = true ∧ exec i s = .next ((s.writeReg (destReg i) v).setPc target)) ∨
    (∃ addr v target, (controlOf i).memWrite = true ∧ exec i s = .next ((s.memWrite addr v).setPc target)) ∨
    ∃ target, exec i s = .next (s.setPc target) := by
  cases i
  case store => exact .inr (.inl ⟨_, _, _, rfl, rfl⟩)
  case nop | j | jr => exact .inr (.inr ⟨_, rfl⟩)
  case beq | bne | blt | bge => exact .inr (.inr ⟨_, congrArg Host.Outcome.next (branch_eq s _ _ _ _)⟩)
  all_goals exact .inl ⟨_, _, rfl, rfl⟩

/-- No instruction faults or is refused (60_exceptions.md R320). -/
theorem exec_answers (i : Instr) (s : State) : ∃ t, exec i s = .next t := by
  obtain ⟨_, _, -, h⟩ | ⟨_, _, _, -, h⟩ | ⟨_, h⟩ := exec_cases i s <;> exact ⟨_, h⟩

/-- No instruction changes instruction memory (R30, 20_memory.md R73). -/
theorem exec_imem {i : Instr} {s t : State} (h : exec i s = .next t) : t.imem = s.imem := by
  obtain ⟨_, _, -, he⟩ | ⟨_, _, _, -, he⟩ | ⟨_, he⟩ := exec_cases i s <;> cases he.symm.trans h <;> rfl

/-- `s` with other instruction memory, latches and driver's records: all the state that no instruction rule reads (R42). -/
def State.withUnread (s : State) (imem : List Word) (ifId : Latch IfId) (idEx : Latch IdEx) (exMem : Latch ExMem)
    (memWb : Latch MemWb) (history : List TickRecord) (cycles : Nat) : State :=
  { s with imem := imem, ifId := ifId, idEx := idEx, exMem := exMem, memWb := memWb, history := history, cycles := cycles }

section
variable (imem : List Word) (ifId : Latch IfId) (idEx : Latch IdEx) (exMem : Latch ExMem) (memWb : Latch MemWb)
  (history : List TickRecord) (cycles : Nat)

theorem branch_withUnread (s : State) (ctl : CtlKind) (rs rt : RegIx) (imm : Imm16) :
    (s.withUnread imem ifId idEx exMem memWb history cycles).branch ctl rs rt imm =
      (s.branch ctl rs rt imm).withUnread imem ifId idEx exMem memWb history cycles := by
  rw [branch_eq, branch_eq]; rfl

/-- An instruction commutes with a change of the state it does not read. -/
theorem exec_withUnread {i : Instr} {s t : State} (h : exec i s = .next t) :
    exec i (s.withUnread imem ifId idEx exMem memWb history cycles) =
      .next (t.withUnread imem ifId idEx exMem memWb history cycles) := by
  cases i
  case beq | bne | blt | bge =>
    cases h
    exact congrArg Host.Outcome.next (branch_withUnread ..)
  all_goals cases h; rfl

end

/-! The architectural invariant, part by part, under an instruction and under a tick. -/

/-- No instruction changes slot 0 of the register file (R22). -/
theorem exec_slotZero {i : Instr} {s t : State} (h : exec i s = .next t) (hs : s.x[0] = 0) : t.x[0] = 0 := by
  obtain ⟨_, _, -, he⟩ | ⟨_, _, _, -, he⟩ | ⟨_, he⟩ := exec_cases i s <;> cases he.symm.trans h
  · exact RegFile.write_slotZero _ _ _ hs
  · exact hs
  · exact hs

/-- An instruction keeps data memory canonical (R31; log 4). -/
theorem exec_dmem_wf {i : Instr} {s t : State} (h : exec i s = .next t) (hs : s.dmem.wf) : t.dmem.wf := by
  obtain ⟨_, _, -, he⟩ | ⟨_, _, _, -, he⟩ | ⟨_, he⟩ := exec_cases i s <;> cases he.symm.trans h
  · exact hs
  · exact Memory.write_wf hs
  · exact hs

theorem State.ArchInv.exec {i : Instr} {s t : State} (hs : s.ArchInv) (h : exec i s = .next t) : t.ArchInv := by
  obtain ⟨hzero, hmem, himem⟩ := hs
  exact ⟨exec_slotZero h hzero, exec_dmem_wf h hmem, (exec_imem h).symm ▸ himem⟩

theorem State.ArchInv.tickNext {s : State} (hs : s.ArchInv) (candidate : Latch IdEx) : (tickNext s candidate).ArchInv := by
  obtain ⟨hzero, hmem, himem⟩ := hs
  exact ⟨wbStage_slotZero s.memWb hzero, memStageMemory_wf s.exMem hmem, himem⟩

/-! The latch invariant, read off an occupied latch. -/

section
variable {s : State}

theorem ifIdInv_iff :
    s.IfIdInv ↔ ∀ f, s.ifId = .occupied f → s.imem[f.pc.toNat]? = some f.instr ∧ s.pc = nextIndex f.pc := by
  unfold State.IfIdInv
  cases s.ifId <;> simp

theorem idExInv_iff :
    s.IdExInv ↔ ∀ d, s.idEx = .occupied d → s.imem[d.pc.toNat]? = some d.instr ∧
      (∃ i, decodeWord d.instr = some i ∧ d = idCandidate { pc := d.pc, instr := d.instr } i s.x) ∧
      s.behindPc = nextIndex d.pc := by
  unfold State.IdExInv
  cases s.idEx <;> simp

theorem exMemInv_iff :
    s.ExMemInv ↔ ∀ e, s.exMem = .occupied e → s.imem[e.pc.toNat]? = some e.instr ∧
      ∃ i, decodeWord e.instr = some i ∧ e.dest = destReg i ∧ e.regWrite = (controlOf i).regWrite ∧
        e.memRead = (controlOf i).memRead ∧ e.memWrite = (controlOf i).memWrite := by
  unfold State.ExMemInv
  cases s.exMem <;> simp

theorem memWbInv_iff :
    s.MemWbInv ↔ ∀ e, s.memWb = .occupied e → s.imem[e.pc.toNat]? = some e.instr ∧
      ∃ i, decodeWord e.instr = some i ∧ e.dest = destReg i ∧ e.regWrite = (controlOf i).regWrite := by
  unfold State.MemWbInv
  cases s.memWb <;> simp

theorem loadUseInv_iff :
    s.LoadUseInv ↔ ∀ e d, s.exMem = .occupied e → s.idEx = .occupied d → e.memRead = true → e.dest ≠ 0 →
      ¬(d.sig.readsRs = true ∧ d.rs = e.dest) ∧ ¬(d.sig.readsRt = true ∧ d.rt = e.dest) := by
  unfold State.LoadUseInv
  cases s.exMem <;> cases s.idEx <;> simp

/-- With nothing in the latches there is nothing to be inconsistent. -/
theorem State.LatchesEmpty.pipeInv (h : s.LatchesEmpty) : s.PipeInv := by
  obtain ⟨hif, hid, hex, hmem⟩ := h
  exact ⟨ifIdInv_iff.mpr (by simp [hif]), idExInv_iff.mpr (by simp [hid]), exMemInv_iff.mpr (by simp [hex]),
    memWbInv_iff.mpr (by simp [hmem]), loadUseInv_iff.mpr (by simp [hex])⟩

end

/-! Where the contents of a latch after a tick come from. -/

section
variable {s : State} {candidate : Latch IdEx}

/-- ID's candidate for a word that decodes (R212). -/
theorem idStage_of_decodes {f : IfId} {i : Instr} {x : RegFile} (h : decodeWord f.instr = some i) :
    idStage (.occupied f) x = .ok (.occupied (idCandidate f i x)) := by
  simp [idStage, h]

theorem tick_of_candidate (h : idStage s.ifId (wbStage s.x s.memWb) = .ok candidate) : tick s = .next (tickNext s candidate) := by
  simp [tick, h]

/-- In a tick without a redirect, `stall` is the load-use condition (R266). -/
theorem wires_stall (h : (wires s).redirect = none) : (wires s).stall = loadUse s.idEx s.ifId := by
  show (!(wires s).redirect.isSome && _) = _
  simp [h]

/-- An instruction in ID/EX after a tick is ID's candidate of a tick without flush and stall (R216, R267, R269). -/
theorem idEx_after_tick (hid : idStage s.ifId (wbStage s.x s.memWb) = .ok candidate) {d : IdEx}
    (h : (tickNext s candidate).idEx = .occupied d) :
    (wires s).redirect = none ∧ loadUse s.idEx s.ifId = false ∧
      ∃ f i, s.ifId = .occupied f ∧ decodeWord f.instr = some i ∧ d = idCandidate f i (wbStage s.x s.memWb) := by
  rw [tickNext_idEx, idExNext, wires_flush] at h
  split at h
  · cases h
  · rename_i hbubble
    simp only [Bool.or_eq_true, not_or, Bool.not_eq_true, Option.isSome_eq_false_iff, Option.isNone_iff_eq_none] at hbubble
    obtain ⟨hredirect, hstall⟩ := hbubble
    obtain ⟨-, rfl⟩ | ⟨f, i, hf, hi, rfl⟩ := idStage_ok hid
    · cases h
    · cases h
      exact ⟨hredirect, (wires_stall hredirect).symm.trans hstall, f, i, hf, hi, rfl⟩

/-- An instruction in EX/MEM after a tick was in ID/EX (R220). -/
theorem exMem_after_tick {e : ExMem} (h : (tickNext s candidate).exMem = .occupied e) :
    ∃ d a b, s.idEx = .occupied d ∧ e = exPublish d a b := by
  rw [tickNext_exMem] at h
  cases hd : s.idEx with
  | empty => simp [hd, exStageLatch] at h
  | occupied d =>
    rw [hd] at h
    cases h
    exact ⟨d, _, _, rfl, rfl⟩

/-- An instruction in MEM/WB after a tick was in EX/MEM (R221). -/
theorem memWb_after_tick {m : MemWb} (h : (tickNext s candidate).memWb = .occupied m) :
    ∃ e, s.exMem = .occupied e ∧
      m = { pc := e.pc, instr := e.instr, dest := e.dest, regWrite := e.regWrite, result := memResult s.dmem e } := by
  rw [tickNext_memWb] at h
  cases he : s.exMem with
  | empty => simp [he, memStageLatch] at h
  | occupied e =>
    rw [he] at h
    cases h
    exact ⟨e, rfl, rfl⟩

/-! Each part of the latch invariant after a tick. -/

theorem State.IfIdInv.tickNext (hs : s.IfIdInv) : (tickNext s candidate).IfIdInv := by
  refine ifIdInv_iff.mpr fun f hf => ?_
  rw [tickNext_ifId] at hf
  rw [tickNext_imem, tickNext_pc]
  obtain ⟨target, -, hcase⟩ | ⟨-, -, hcase⟩ | ⟨w, -, -, hw, hcase⟩ | ⟨-, -, -, hcase⟩ :=
    ifStage_cases (wires s).redirect (wires s).stall s.ifId s.pc s.fetch <;> rw [hcase] at hf ⊢
  · cases hf
  · exact ifIdInv_iff.mp hs f hf
  · cases hf
    exact ⟨hw, rfl⟩
  · cases hf

/-- After a tick without flush and stall, the instruction to come next is the one at the old fetch pc (R211). -/
theorem behindPc_tickNext (hredirect : (wires s).redirect = none) (hstall : (wires s).stall = false) :
    (tickNext s candidate).behindPc = s.pc := by
  unfold State.behindPc
  rw [tickNext_ifId, tickNext_pc, hredirect, hstall]
  cases s.fetch <;> rfl

theorem State.IdExInv.tickNext (hif : s.IfIdInv) (hid : idStage s.ifId (wbStage s.x s.memWb) = .ok candidate) :
    (tickNext s candidate).IdExInv := by
  refine idExInv_iff.mpr fun d hd => ?_
  obtain ⟨hredirect, huse, f, i, hf, hi, rfl⟩ := idEx_after_tick hid hd
  obtain ⟨hword, hpc⟩ := ifIdInv_iff.mp hif f hf
  exact ⟨hword, ⟨i, hi, rfl⟩, (behindPc_tickNext hredirect ((wires_stall hredirect).trans huse)).trans hpc⟩

theorem State.ExMemInv.tickNext (hid : s.IdExInv) : (tickNext s candidate).ExMemInv := by
  refine exMemInv_iff.mpr fun e he => ?_
  obtain ⟨d, a, b, hd, rfl⟩ := exMem_after_tick he
  obtain ⟨hword, ⟨i, hi, hdec⟩, -⟩ := idExInv_iff.mp hid d hd
  refine ⟨hword, i, hi, ?_⟩
  rw [hdec]
  exact ⟨rfl, rfl, rfl, rfl⟩

theorem State.MemWbInv.tickNext (hex : s.ExMemInv) : (tickNext s candidate).MemWbInv := by
  refine memWbInv_iff.mpr fun m hm => ?_
  obtain ⟨e, he, rfl⟩ := memWb_after_tick hm
  obtain ⟨hword, i, hi, hdest, hwrite, -⟩ := exMemInv_iff.mp hex e he
  exact ⟨hword, i, hi, hdest, hwrite⟩

/-- The load-use condition does not hold of a load in EX and an instruction in ID: ID's candidate does not read the load's
destination (R266). -/
theorem not_reads_of_loadUse_false {d : IdEx} {f : IfId} {i : Instr} {x : RegFile} (hi : decodeWord f.instr = some i)
    (huse : loadUse (.occupied d) (.occupied f) = false) (hload : d.sig.memRead = true) (hdest : d.dest ≠ Config.zeroReg) :
    ¬((idCandidate f i x).sig.readsRs = true ∧ (idCandidate f i x).rs = d.dest) ∧
      ¬((idCandidate f i x).sig.readsRt = true ∧ (idCandidate f i x).rt = d.dest) := by
  simpa [loadUse, wordReads, hi, hload, hdest, idCandidate] using huse

theorem State.LoadUseInv.tickNext (hid : idStage s.ifId (wbStage s.x s.memWb) = .ok candidate) :
    (tickNext s candidate).LoadUseInv := by
  refine loadUseInv_iff.mpr fun e d' he hd' => ?_
  obtain ⟨d, a, b, hd, rfl⟩ := exMem_after_tick he
  obtain ⟨-, huse, f, i, hf, hi, rfl⟩ := idEx_after_tick hid hd'
  rw [hd, hf] at huse
  exact not_reads_of_loadUse_false hi huse

/-- A tick that answers a next state keeps the latches consistent; the architectural invariant is not needed (R38). -/
theorem State.PipeInv.tick {t : State} (hs : s.PipeInv) (h : tick s = .next t) : t.PipeInv := by
  obtain ⟨candidate, hid, rfl⟩ := tick_next h
  obtain ⟨hIfId, hIdEx, hExMem, -, -⟩ := hs
  exact ⟨hIfId.tickNext, .tickNext hIfId hid, .tickNext hIdEx, .tickNext hExMem, .tickNext hid⟩

/-- Under the invariants no reserved word reaches ID, so a tick answers a next state (R323). -/
theorem tick_answers (harch : s.ArchInv) (hif : s.IfIdInv) : ∃ t, tick s = .next t := by
  cases hf : s.ifId with
  | empty => exact ⟨_, tick_of_candidate (by rw [hf]; rfl)⟩
  | occupied f =>
    obtain ⟨hword, -⟩ := ifIdInv_iff.mp hif f hf
    obtain ⟨i, hi⟩ := harch.decodes hword
    exact ⟨_, tick_of_candidate (by rw [hf]; exact idStage_of_decodes hi)⟩

end

/-! Register 0 in the forwarding and hazard units (45_forwarding_hazard.md R263, R266). -/

theorem forwardSelect_zero (exMem : Latch ExMem) (memWb : Latch MemWb) (reads : Bool) :
    forwardSelect exMem memWb 0 reads = .REG := by
  simp [forwardSelect, Config.zeroReg]

theorem loadUse_of_dest_zero {d : IdEx} (h : d.dest = 0) (ifId : Latch IfId) : loadUse (.occupied d) ifId = false := by
  cases ifId <;> simp [loadUse, h, Config.zeroReg]

/-! The launched state (70_reset_and_hazards.md R350). -/

/-- The cells of `DMEM_INIT` from index `k` on: cell `q` holds the entry for it, or what an unlisted cell holds past the end. -/
theorem cellRead_initCells {n k q : Nat} {l : List Word} (hk : k ≤ q) (hq : q < k + n) :
    cellRead q (initCells n k l) = (l[q - k]?).getD Config.unlistedCell := by
  induction n generalizing k l with
  | zero => omega
  | succ n ih =>
    cases l with
    | nil => rfl
    | cons v rest =>
      have habove : cellsAbove k (initCells n (k + 1) rest) := fun c hc => (mem_initCells hc).1
      rw [initCells, cellRead_cellCons habove]
      split
      · subst q; simp
      · rw [ih (by omega) (by omega), show q - k = q - (k + 1) + 1 by omega, List.getElem?_cons_succ]

section
variable (imem : List Word) (sizeLog2 : Fin 33) (regInit : RegFile) (dmemInit : List Word)

theorem launch_latchesEmpty : (State.launch imem sizeLog2 regInit dmemInit).LatchesEmpty := ⟨rfl, rfl, rfl, rfl⟩

theorem launch_slotZero : (State.launch imem sizeLog2 regInit dmemInit).x[0] = 0 := Vector.getElem_set_self ..

theorem launch_readReg {r : RegIx} (hr : r ≠ 0) :
    (State.launch imem sizeLog2 regInit dmemInit).readReg r = regInit[r.toNat]'r.isLt := by
  have hne : 0 ≠ r.toNat := fun h => hr (BitVec.eq_of_toNat_eq h.symm)
  show RegFile.read (regInit.set 0 0) r = _
  rw [RegFile.read, if_neg (show r ≠ Config.zeroReg from hr), Vector.getElem_set_ne _ _ hne]

theorem launch_readCell {j : Nat} (hj : j < 2 ^ sizeLog2.val) :
    (State.launch imem sizeLog2 regInit dmemInit).dmem.readCell j = (dmemInit[j]?).getD 0 :=
  cellRead_initCells (Nat.zero_le j) (by simpa using hj)

/-- The default of `REG_INIT` is 0 in every register (R9). -/
theorem launch_default_readReg (r : RegIx) :
    (State.launch imem sizeLog2 Config.defaultRegInit dmemInit).readReg r = 0 := by
  by_cases hr : r = 0
  · subst hr; rfl
  · rw [launch_readReg imem sizeLog2 _ dmemInit hr]
    exact Vector.getElem_replicate ..

theorem launch_archInv (hlen : imem.length ≤ Config.maxImemLen) (hvalid : ∀ w ∈ imem, validWord w = true) :
    (State.launch imem sizeLog2 regInit dmemInit).ArchInv :=
  ⟨launch_slotZero .., Memory.init_wf .., hlen, hvalid⟩

theorem launch_launched (hlen : imem.length ≤ Config.maxImemLen) (hvalid : ∀ w ∈ imem, validWord w = true) :
    (State.launch imem sizeLog2 regInit dmemInit).Launched :=
  ⟨launch_latchesEmpty .., rfl, rfl, hlen, hvalid⟩

end

/-- Reset is the launch of the empty program with the default parameters (R41; log 3, 5, 6). -/
theorem reset_eq_launch : State.reset = State.launch [] Config.defaultDmemSizeLog2 Config.defaultRegInit [] := by decide

/-! What the host and a program see. -/

/-- The snapshot determines the state (R42). -/
theorem snapshot_injective {s u : State} (h : snapshot s = snapshot u) : s = u := by
  cases s
  cases u
  simp only [snapshot, Snapshot.mk.injEq] at h
  simp [h]

/-- The snapshot shows the pc of an occupied latch (R299). -/
theorem latchPc_of_occupied {α : Type} {l : Latch α} {v : α} (pcOf : α → Word) (h : l = .occupied v) :
    latchPc pcOf l = some (pcOf v) :=
  h ▸ latchPc_occupied pcOf v

/-- The last record after a tick is that tick's (R299). -/
theorem activity_after_tick {s t : State} (h : tick s = .next t) : (snapshot t).activity = some (tickRecord s) := by
  obtain ⟨candidate, -, rfl⟩ := tick_next h
  exact List.getLast?_concat ..

end Sys2Proof.Machine

open Sys2Proof Sys2Proof.Machine

/-! The obligations of 10_state.md. -/

/-- Settles O26: the word at the pc is valid, so it decodes, and the instruction keeps the invariant. -/
theorem stepKeepsTheArchitecturalInvariant : Obligations.StepKeepsTheArchitecturalInvariant := by
  intro s hs
  cases hw : s.fetch with
  | none => exact ⟨s, by simp [step, hw], hs, rfl⟩
  | some w =>
    obtain ⟨i, hi⟩ := hs.decodes hw
    obtain ⟨t, ht⟩ := exec_answers i s
    exact ⟨t, by simp [step, hw, hi, ht], hs.exec ht, exec_imem ht⟩

/-- Settles O27: ID never meets a reserved word, and each part of the latch invariant follows from the part one stage earlier. -/
theorem tickKeepsTheMachineInvariant : Obligations.TickKeepsTheMachineInvariant := by
  intro s harch hpipe
  have ⟨hIfId, _⟩ := hpipe
  obtain ⟨t, ht⟩ := tick_answers harch hIfId
  obtain ⟨candidate, -, rfl⟩ := tick_next ht
  exact ⟨_, ht, harch.tickNext candidate, hpipe.tick ht, rfl⟩

/-- Settles O20: register 0 by part, with the two steps through what each writes. -/
theorem registerZeroIsWiredToZero : Obligations.RegisterZeroIsWiredToZero := by
  refine ⟨readReg_zero, fun f i x => ⟨fun h => ?_, fun h => ?_⟩, fun s v => rfl, fun s t h hs => ?_, fun i s t h hs => ?_,
    fun em mw reads => ?_, fun d l hd => ?_⟩
  · exact (congrArg (RegFile.read x) h).trans (RegFile.read_zero x)
  · exact (congrArg (RegFile.read x) h).trans (RegFile.read_zero x)
  · obtain ⟨candidate, -, rfl⟩ := tick_next h
    exact wbStage_slotZero s.memWb hs
  · exact exec_slotZero h hs
  · exact forwardSelect_zero em mw reads
  · exact loadUse_of_dest_zero hd l

/-- Settles O23: the fields by the definition of the launch, registers and cells by what a read of them gives. -/
theorem launchFollowsItsParameters : Obligations.LaunchFollowsItsParameters := by
  intro imem sizeLog2 regInit dmemInit
  exact ⟨launch_latchesEmpty .., rfl, rfl, rfl, rfl, rfl, rfl, launch_slotZero ..,
    fun _ hr => launch_readReg (hr := hr) .., fun _ hj => launch_readCell (hj := hj) .., fun _ => launch_default_readReg ..⟩

/-- Settles O50: an instruction commutes with any change of the state it does not read. -/
theorem hostSeesAllStateAndProgramsDoNot : Obligations.HostSeesAllStateAndProgramsDoNot := by
  refine ⟨fun s u => snapshot_injective, fun s t => activity_after_tick, fun s =>
    ⟨fun _ => latchPc_of_occupied _, fun _ => latchPc_of_occupied _, fun _ => latchPc_of_occupied _,
      fun _ => latchPc_of_occupied _⟩, ?_⟩
  intro i s imem ifId idEx exMem memWb history cycles
  obtain ⟨t, ht⟩ := exec_answers i s
  exact ⟨t, _, ht, exec_withUnread imem ifId idEx exMem memWb history cycles ht, rfl, rfl, rfl⟩

/-- Settles O25: the latches of a launch are empty, so their invariant holds of it. -/
theorem launchMeetsTheInvariants : Obligations.LaunchMeetsTheInvariants := by
  intro imem sizeLog2 regInit dmemInit hlen hvalid
  exact ⟨launch_archInv imem sizeLog2 regInit dmemInit hlen hvalid, (launch_latchesEmpty ..).pipeInv,
    launch_launched imem sizeLog2 regInit dmemInit hlen hvalid⟩

/-- Settles O24: reset is a launch, of a program without words. -/
theorem resetMeetsTheInvariants : Obligations.ResetMeetsTheInvariants := by
  obtain ⟨harch, hpipe, hlaunched⟩ := launchMeetsTheInvariants [] Config.defaultDmemSizeLog2 Config.defaultRegInit []
    (Nat.zero_le _) (by simp)
  rw [← reset_eq_launch] at harch hpipe hlaunched
  exact ⟨harch, hpipe, hlaunched, reset_eq_launch⟩

end

section
/-! PROOFS. Data memory (20_memory.md): which cell an address names, what a memory's reads say of its data, what LOAD, STORE and the
other instructions do to it; then the obligations of that family. -/

namespace Sys2Proof.Machine

/-! Cells and addresses (R61). -/

/-- `DMEM_WORDS` divides the number of data addresses. -/
theorem Memory.words_dvd (m : Memory) : m.words ∣ 2 ^ 32 := Nat.pow_dvd_pow 2 (Nat.le_of_lt_succ m.sizeLog2.isLt)

/-- The wrap of an address at 2^32 does not change the cell it names. -/
theorem Memory.cellOf_ofNat (m : Memory) (n : Nat) : m.cellOf (BitVec.ofNat 32 n) = n % m.words := by
  rw [cellOf, BitVec.toNat_ofNat, Nat.mod_mod_of_dvd n m.words_dvd]

/-- The address `DMEM_WORDS` further names the same cell. -/
theorem Memory.cellOf_add_words (m : Memory) (a : Word) : m.cellOf (a + BitVec.ofNat 32 m.words) = m.cellOf a := by
  have hsum : a + BitVec.ofNat 32 m.words = BitVec.ofNat 32 (a.toNat + m.words) := by simp [BitVec.ofNat_add]
  rw [hsum, cellOf_ofNat, Nat.add_mod_right]; rfl

/-- Every cell of the memory is read at the address with its index. -/
theorem Memory.read_ofNat {m : Memory} {k : Nat} (hk : k < m.words) : m.read (BitVec.ofNat 32 k) = m.readCell k := by
  rw [read, cellOf_ofNat, Nat.mod_eq_of_lt hk]

/-! What the reads say of the list of cells (log 4). -/

/-- A cell that does not read as an unlisted one is listed, with the Word it reads as. -/
theorem mem_of_cellRead_ne {k : Nat} {l : List MemCell} (h : cellRead k l ≠ Config.unlistedCell) : (k, cellRead k l) ∈ l := by
  induction l with
  | nil => exact absurd rfl h
  | cons c rest ih =>
    by_cases hk : k = c.1
    · subst hk; simp [cellRead]
    · simp only [cellRead, if_neg hk] at h ⊢
      exact .tail _ (ih h)

/-- In a list with rising keys, a listed cell reads as its entry. -/
theorem cellRead_of_mem {c : MemCell} {l : List MemCell} (h : l.Pairwise (fun c d => c.1 < d.1)) (hc : c ∈ l) :
    cellRead c.1 l = c.2 := by
  induction l with
  | nil => cases hc
  | cons d rest ih =>
    obtain ⟨hhead, htail⟩ := List.pairwise_cons.mp h
    obtain rfl | hrest := List.mem_cons.mp hc
    · simp [cellRead]
    · rw [cellRead, if_neg (Nat.ne_of_gt (hhead c hrest)), ih htail hrest]

/-- Two lists with rising keys and the same entries are equal. -/
theorem cells_eq_of_mem_iff {l k : List MemCell} (hl : l.Pairwise (fun c d => c.1 < d.1))
    (hk : k.Pairwise (fun c d => c.1 < d.1)) (h : ∀ c, c ∈ l ↔ c ∈ k) : l = k :=
  haveI : Std.Irrefl fun c d : MemCell => c.1 < d.1 := ⟨fun c => Nat.lt_irrefl c.1⟩
  haveI : Std.Antisymm fun c d : MemCell => c.1 < d.1 := ⟨fun _ _ h1 h2 => absurd h1 (Nat.lt_asymm h2)⟩
  hl.eq_of_mem_iff hk h

/-- An entry of one canonical memory is an entry of every memory of its size that reads the same. -/
theorem Memory.mem_cells_of_reads {m q : Memory} (hm : m.wf) (hsize : m.sizeLog2 = q.sizeLog2)
    (h : ∀ addr, m.read addr = q.read addr) {c : MemCell} (hc : c ∈ m.cells) : c ∈ q.cells := by
  obtain ⟨hrising, hcells⟩ := hm
  obtain ⟨hlt, hne⟩ := hcells c hc
  have hlt' : c.1 < q.words := by rwa [words, ← hsize]
  have hq : q.readCell c.1 = c.2 := by
    rw [← read_ofNat hlt', ← h, read_ofNat hlt]
    exact cellRead_of_mem hrising hc
  have hmem : (c.1, q.readCell c.1) ∈ q.cells := mem_of_cellRead_ne (hq.trans_ne hne)
  rwa [hq] at hmem

/-- A canonical memory is determined by its size and its reads. -/
theorem Memory.ext_of_reads {m q : Memory} (hm : m.wf) (hq : q.wf) (hsize : m.sizeLog2 = q.sizeLog2)
    (h : ∀ addr, m.read addr = q.read addr) : m = q := by
  have hcells : m.cells = q.cells := cells_eq_of_mem_iff hm.1 hq.1 fun _ =>
    ⟨mem_cells_of_reads hm hsize h, mem_cells_of_reads hq hsize.symm fun addr => (h addr).symm⟩
  cases m
  cases q
  cases hsize
  cases hcells
  rfl

/-! LOAD and STORE: their words and their address (42_load_store.md R180). -/

theorem decodeWord_load (rt rs : RegIx) (imm : Imm16) : decodeWord (encodeI 0x20 rs rt imm) = some (.load rt rs imm) := by
  simp [decodeWord, decodeI]

theorem decodeWord_store (rt rs : RegIx) (imm : Imm16) : decodeWord (encodeI 0x21 rs rt imm) = some (.store rt rs imm) := by
  simp [decodeWord, decodeI]

/-- Sign extension keeps the two's-complement value (R13). -/
theorem sext32_eq_mask32 (imm : Imm16) : sext32 imm = mask32 imm.toInt := rfl

/-- A Word plus a signed immediate, computed in the integers and reduced (R12). -/
theorem add_sext32 (a : Word) (imm : Imm16) : a + sext32 imm = mask32 (a.toNat + imm.toInt) := by
  rw [sext32_eq_mask32, mask32, mask32, BitVec.ofInt_add, BitVec.ofInt_natCast, BitVec.ofNat_toNat, BitVec.setWidth_eq]

theorem dataAddress_eq (s : State) (rs : RegIx) (imm : Imm16) :
    s.dataAddress rs imm = mask32 ((s.readReg rs).toNat + imm.toInt) := add_sext32 ..

/-! The effect of LOAD and STORE, and what an instruction can do to data memory (R60, R182). -/

/-- An instruction whose effect is one register write and the move to the next index: what it writes, and its frame (R14, R23). -/
theorem runsToRegister_of_exec {i : Instr} {s : State} {r : RegIx} {v : Word} (h : exec i s = .next (s.writeReg r v).advance) :
    RunsToRegister i s r v :=
  ⟨_, h, fun q => readReg_writeReg s r q v, rfl, ⟨rfl, fun _ => rfl⟩, rfl, rfl, rfl, rfl, rfl, rfl, rfl⟩

theorem exec_load (rt rs : RegIx) (imm : Imm16) (s : State) :
    exec (.load rt rs imm) s = .next (s.writeReg rt (s.memRead (s.dataAddress rs imm))).advance := rfl

theorem exec_store (rt rs : RegIx) (imm : Imm16) (s : State) :
    exec (.store rt rs imm) s = .next (s.memWrite (s.dataAddress rs imm) (s.readReg rt)).advance := rfl

/-- In a canonical memory a write stores its Word in the one cell of its address (R61, R62). -/
theorem storesWord_memWrite {s : State} (hs : s.dmem.wf) (ea v : Word) : StoresWord s (s.memWrite ea v).advance ea v :=
  ⟨rfl, fun _ => Memory.read_write hs⟩

/-- No instruction changes `DMEM_WORDS` (R60). -/
theorem exec_dmem_sizeLog2 {i : Instr} {s t : State} (h : exec i s = .next t) : t.dmem.sizeLog2 = s.dmem.sizeLog2 := by
  obtain ⟨_, _, -, he⟩ | ⟨_, _, _, -, he⟩ | ⟨_, he⟩ := exec_cases i s <;> cases he.symm.trans h <;> rfl

/-- An instruction without the control signal `mem_write` leaves data memory as it is (R182, R213). -/
theorem exec_dmem_of_memWrite_false {i : Instr} {s t : State} (h : exec i s = .next t) (hw : (controlOf i).memWrite = false) :
    t.dmem = s.dmem := by
  obtain ⟨_, _, -, he⟩ | ⟨_, _, _, hwrites, -⟩ | ⟨_, he⟩ := exec_cases i s
  · cases he.symm.trans h; rfl
  · cases hw.symm.trans hwrites
  · cases he.symm.trans h; rfl

/-- `mem_write` is the signal of STORE alone (R213). -/
theorem memWrite_iff_store (i : Instr) : (controlOf i).memWrite = true ↔ ∃ rt rs imm, i = .store rt rs imm := by
  constructor
  · intro h
    cases i
    case store rt rs imm => exact ⟨rt, rs, imm, rfl⟩
    all_goals cases h
  · rintro ⟨rt, rs, imm, rfl⟩
    rfl

end Sys2Proof.Machine

open Sys2Proof Sys2Proof.Machine

/-! The obligations of 20_memory.md. -/

/-- Settles O21: a cell's name is not changed by the wrap at 2^32, and a write is read back at the addresses of its cell alone. -/
theorem memoryReadAfterWrite : Obligations.MemoryReadAfterWrite := by
  intro m a b v hm
  refine ⟨rfl, m.cellOf_add_words a, rfl, (Memory.read_write hm).trans ?_⟩
  exact if_congr eq_comm rfl rfl

/-- Settles O22: memories that read the same have the same entries, and rising lists with the same entries are equal. -/
theorem canonicalMemoryIsDeterminedByItsReads : Obligations.CanonicalMemoryIsDeterminedByItsReads :=
  fun _ _ => Memory.ext_of_reads

/-- Settles O13: LOAD is one register write of the Word read at its address. -/
theorem loadReadsOneCell : Obligations.LoadReadsOneCell := by
  intro rt rs imm s
  refine ⟨rfl, decodeWord_load rt rs imm, rfl, rfl, sext32_eq_mask32 imm, dataAddress_eq s rs imm, ?_⟩
  rw [← dataAddress_eq]
  exact runsToRegister_of_exec (exec_load rt rs imm s)

/-- Settles O14: STORE is one memory write at its address, and no register is written. -/
theorem storeWritesOneCell : Obligations.StoreWritesOneCell := by
  intro rt rs imm s hs
  exact ⟨rfl, decodeWord_store rt rs imm, rfl, rfl, sext32_eq_mask32 imm, dataAddress_eq s rs imm, _, exec_store rt rs imm s,
    storesWord_memWrite hs _ _, fun _ => rfl, rfl, rfl, rfl, rfl, rfl, rfl, rfl, rfl⟩

/-- Settles O18: by what an instruction can do; only a memory write touches data memory, and it needs the signal of STORE. -/
theorem onlyStoreChangesDataMemory : Obligations.OnlyStoreChangesDataMemory := by
  intro i s
  obtain ⟨t, ht⟩ := exec_answers i s
  exact ⟨t, ht, exec_dmem_sizeLog2 ht, exec_dmem_of_memWrite_false ht, memWrite_iff_store i⟩

end

section
/-! PROOFS. The codec (30_encoding.md): words and instructions, the opcode map, the registers an instruction reads, the tokens of a
rendered line, loading; then the obligations of that family. -/

namespace Sys2Proof.Machine

/-! The word of an instruction, decoded (R92, R94, R96). -/

/-- Decoding gives back a well-formed instruction: each decoder reads the fields its encoder placed. -/
theorem decodeWord_encode {i : Instr} (h : i.wf = true) : decodeWord (encode i) = some i := by
  cases i
  case nop => rfl
  case slli | srli | srai =>
    have hzero := eq_of_beq h
    simp [encode, decodeWord, decodeIH, hzero]
  case lui rt imm =>
    have hzero : (encodeI 0x18 0 rt imm).extractLsb' 21 5 = 0 := rsOf_encodeI ..
    simpa [encode, decodeWord, decodeL] using hzero
  case j | jal => simp [encode, decodeWord, decodeJ]
  case jr => simp [encode, decodeWord, decodeJR]
  case add | sub | and | or | xor | slt | sltu | sll | srl | sra => simp [encode, decodeWord, decodeR]
  all_goals simp [encode, decodeWord, decodeI, decodeB]

/-! A word put together from its fields again (R91). -/

theorem encodeI_fields (w : Word) : encodeI (opcodeOf w) (rsOf w) (rtOf w) (immOf w) = w := by
  simp only [encodeI, opcodeOf, rsOf, rtOf, immOf]
  iterate 3 rw [BitVec.extractLsb'_append_extractLsb'_eq_extractLsb']
  · exact BitVec.extractLsb'_eq_self
  all_goals rfl

theorem encodeJ_fields (w : Word) : encodeJ (opcodeOf w) (targetOf w) = w := by
  simp only [encodeJ, opcodeOf, targetOf]
  rw [BitVec.extractLsb'_append_extractLsb'_eq_extractLsb']
  · exact BitVec.extractLsb'_eq_self
  all_goals rfl

theorem encodeR_fields {w : Word} (h : w.extractLsb' 0 11 = 0) : encodeR (opcodeOf w) (rdOf w) (rsOf w) (rtOf w) = w := by
  simp only [encodeR, opcodeOf, rdOf, rsOf, rtOf, ← h]
  iterate 4 rw [BitVec.extractLsb'_append_extractLsb'_eq_extractLsb']
  · exact BitVec.extractLsb'_eq_self
  all_goals rfl

theorem encodeJR_fields {w : Word} (h : w.extractLsb' 0 21 = 0) : encodeJR (opcodeOf w) (rsOf w) = w := by
  simp only [encodeJR, opcodeOf, rsOf, ← h]
  iterate 2 rw [BitVec.extractLsb'_append_extractLsb'_eq_extractLsb']
  · exact BitVec.extractLsb'_eq_self
  all_goals rfl

/-- The must-be-zero field of format IH is that of the immediate field. -/
theorem shamtInRange_immOf {w : Word} (h : w.extractLsb' 5 11 = 0) : shamtInRange (immOf w) = true := by
  rw [shamtInRange, ← shamtField_encodeI (opcodeOf w) (rsOf w) (rtOf w), encodeI_fields, h]
  rfl

/-! What a decoder of one format gives, and that the encoder of the format puts the word together again (R96). -/

section
variable {w : Word} {i : Instr} {op : Nat} (hop : (opcodeOf w).toNat = op)
include hop

theorem ofNat_opcode : BitVec.ofNat 6 op = opcodeOf w := by simp [← hop]

theorem decodeR_some {mk : RegIx → RegIx → RegIx → Instr} (h : decodeR w mk = some i) :
    ∃ rd rs rt, i = mk rd rs rt ∧ encodeR (BitVec.ofNat 6 op) rd rs rt = w := by
  obtain ⟨hzero, hi⟩ := Option.ite_none_right_eq_some.mp h
  cases hi
  exact ⟨_, _, _, rfl, ofNat_opcode hop ▸ encodeR_fields hzero⟩

theorem decodeI_some {mk : RegIx → RegIx → Imm16 → Instr} (h : decodeI w mk = some i) :
    ∃ rt rs imm, i = mk rt rs imm ∧ encodeI (BitVec.ofNat 6 op) rs rt imm = w := by
  cases h
  exact ⟨_, _, _, rfl, ofNat_opcode hop ▸ encodeI_fields w⟩

theorem decodeIH_some {mk : RegIx → RegIx → Imm16 → Instr} (h : decodeIH w mk = some i) :
    ∃ rt rs shamt, i = mk rt rs shamt ∧ shamtInRange shamt = true ∧ encodeI (BitVec.ofNat 6 op) rs rt shamt = w := by
  obtain ⟨hzero, hi⟩ := Option.ite_none_right_eq_some.mp h
  cases hi
  exact ⟨_, _, _, rfl, shamtInRange_immOf hzero, ofNat_opcode hop ▸ encodeI_fields w⟩

theorem decodeL_some {mk : RegIx → Imm16 → Instr} (h : decodeL w mk = some i) :
    ∃ rt imm, i = mk rt imm ∧ encodeI (BitVec.ofNat 6 op) 0 rt imm = w := by
  obtain ⟨hzero, hi⟩ := Option.ite_none_right_eq_some.mp h
  cases hi
  exact ⟨_, _, rfl, ofNat_opcode hop ▸ (congrArg (encodeI _ · _ _) hzero.symm).trans (encodeI_fields w)⟩

theorem decodeB_some {mk : RegIx → RegIx → Imm16 → Instr} (h : decodeB w mk = some i) :
    ∃ rs rt imm, i = mk rs rt imm ∧ encodeI (BitVec.ofNat 6 op) rs rt imm = w := by
  cases h
  exact ⟨_, _, _, rfl, ofNat_opcode hop ▸ encodeI_fields w⟩

theorem decodeJ_some {mk : Target26 → Instr} (h : decodeJ w mk = some i) :
    ∃ target, i = mk target ∧ encodeJ (BitVec.ofNat 6 op) target = w := by
  cases h
  exact ⟨_, rfl, ofNat_opcode hop ▸ encodeJ_fields w⟩

theorem decodeJR_some {mk : RegIx → Instr} (h : decodeJR w mk = some i) :
    ∃ rs, i = mk rs ∧ encodeJR (BitVec.ofNat 6 op) rs = w := by
  obtain ⟨hzero, hi⟩ := Option.ite_none_right_eq_some.mp h
  cases hi
  exact ⟨_, rfl, ofNat_opcode hop ▸ encodeJR_fields hzero⟩

end

/-- A word that decodes is the encoding of what it decodes to, which is well formed: one case per opcode. -/
theorem encode_of_decodeWord {w : Word} {i : Instr} (h : decodeWord w = some i) : i.wf = true ∧ encode i = w := by
  unfold decodeWord at h
  split at h <;> rename_i hop
  case h_30 => cases h
  case h_1 =>
    obtain ⟨rfl, hi⟩ := Option.ite_none_right_eq_some.mp h
    cases hi
    exact ⟨rfl, rfl⟩
  case h_2 | h_3 | h_4 | h_5 | h_6 | h_7 | h_8 | h_9 | h_10 | h_11 =>
    obtain ⟨_, _, _, rfl, hw⟩ := decodeR_some hop h
    exact ⟨rfl, hw⟩
  case h_12 | h_13 | h_14 | h_15 | h_16 | h_21 | h_22 =>
    obtain ⟨_, _, _, rfl, hw⟩ := decodeI_some hop h
    exact ⟨rfl, hw⟩
  case h_17 | h_18 | h_19 =>
    obtain ⟨_, _, _, rfl, hshamt, hw⟩ := decodeIH_some hop h
    exact ⟨hshamt, hw⟩
  case h_20 =>
    obtain ⟨_, _, rfl, hw⟩ := decodeL_some hop h
    exact ⟨rfl, hw⟩
  case h_23 | h_24 | h_25 | h_26 =>
    obtain ⟨_, _, _, rfl, hw⟩ := decodeB_some hop h
    exact ⟨rfl, hw⟩
  case h_27 | h_28 =>
    obtain ⟨_, rfl, hw⟩ := decodeJ_some hop h
    exact ⟨rfl, hw⟩
  case h_29 =>
    obtain ⟨_, rfl, hw⟩ := decodeJR_some hop h
    exact ⟨rfl, hw⟩

/-! The opcode map (R94). -/

/-- A word that matches a row has the bits of the row's pattern in every field that the mask covers. -/
theorem field_of_match {w mask pattern : Word} (k n : Nat) (h : w &&& mask = pattern)
    (hmask : mask.extractLsb' k n = BitVec.allOnes n) : w.extractLsb' k n = pattern.extractLsb' k n := by
  rw [← h, BitVec.extractLsb'_and, hmask, BitVec.and_allOnes]

/-- Every mask covers the opcode. -/
theorem opcodeOf_mask : ∀ r ∈ opcodeTable, opcodeOf r.mask = BitVec.allOnes 6 := by decide

theorem opcodeOf_of_match {r : OpRow} (hr : r ∈ opcodeTable) {w : Word} (h : w &&& r.mask = r.pattern) :
    opcodeOf w = opcodeOf r.pattern := field_of_match 26 6 h (opcodeOf_mask r hr)

/-- No two rows have the same opcode. -/
theorem row_eq_of_opcode {r q : OpRow} (hr : r ∈ opcodeTable) (hq : q ∈ opcodeTable)
    (h : opcodeOf r.pattern = opcodeOf q.pattern) : r = q :=
  List.inj_on_of_nodup_map (f := fun r : OpRow => opcodeOf r.pattern) (by decide) hr hq h

/-- No two rows have the same mnemonic. -/
theorem row_eq_of_mnemonic {r q : OpRow} (hr : r ∈ opcodeTable) (hq : q ∈ opcodeTable) (h : r.mnemonic = q.mnemonic) : r = q :=
  List.inj_on_of_nodup_map (f := OpRow.mnemonic) (by decide) hr hq h

/-- The masks by format (R92): NOP; format R; the formats without a must-be-zero field; formats IH, L and JR. -/
theorem row_format : ∀ r ∈ opcodeTable,
    let op := (opcodeOf r.pattern).toNat
    (r.mask = 0xFFFFFFFF ∧ r.pattern = 0) ∨
    (r.mask = 0xFC0007FF ∧ (1 ≤ op ∧ op ≤ 0x0A) ∧ r.pattern.extractLsb' 0 11 = 0) ∨
    (r.mask = 0xFC000000 ∧ op ∈ [0x10, 0x11, 0x12, 0x13, 0x14, 0x20, 0x21, 0x30, 0x31, 0x32, 0x33, 0x38, 0x39]) ∨
    (r.mask = 0xFC00FFE0 ∧ op ∈ [0x15, 0x16, 0x17] ∧ r.pattern.extractLsb' 5 11 = 0) ∨
    (r.mask = 0xFFE00000 ∧ op = 0x18 ∧ r.pattern.extractLsb' 21 5 = 0) ∨
    (r.mask = 0xFC1FFFFF ∧ op = 0x3A ∧ r.pattern.extractLsb' 0 21 = 0) := by decide

/-- A word that matches a row is valid: its must-be-zero field is under the mask (R96). -/
theorem validWord_of_match {r : OpRow} (hr : r ∈ opcodeTable) {w : Word} (h : w &&& r.mask = r.pattern) :
    validWord w = true := by
  have hop := congrArg BitVec.toNat (opcodeOf_of_match hr h)
  obtain ⟨hmask, hpattern⟩ | ⟨hmask, hrange, hzero⟩ | ⟨hmask, hmem⟩ | ⟨hmask, hmem, hzero⟩ | ⟨hmask, hlui, hzero⟩ |
    ⟨hmask, hjr, hzero⟩ := row_format r hr
  · rw [hmask, hpattern] at h
    have hw : w = 0 := BitVec.and_allOnes.symm.trans h
    subst hw; rfl
  · have hfield := field_of_match 0 11 h (by rw [hmask]; decide)
    simp [validWord, hop, hfield, hzero, hrange, show (opcodeOf r.pattern).toNat ≠ 0 by omega]
  · simp only [validWord, hop]
    generalize (opcodeOf r.pattern).toNat = op at hmem
    fin_cases hmem <;> rfl
  · have hfield := field_of_match 5 11 h (by rw [hmask]; decide)
    simp only [validWord, hop, hfield, hzero]
    generalize (opcodeOf r.pattern).toNat = op at hmem
    fin_cases hmem <;> rfl
  · have hfield := field_of_match 21 5 h (by rw [hmask]; decide)
    simp [validWord, hop, hfield, hzero, hlui]
  · have hfield := field_of_match 0 21 h (by rw [hmask]; decide)
    simp [validWord, hop, hfield, hzero, hjr]

/-- The row of every instruction (R94): the word of a well-formed one matches the row with its mnemonic. -/
theorem encodingMatchesRow : ∀ i : Instr, Laws.EncodingMatchesRow.Statement i
  | .nop => Laws.EncodingMatchesRow.nop
  | .add rd rs rt => Laws.EncodingMatchesRow.add rd rs rt
  | .sub rd rs rt => Laws.EncodingMatchesRow.sub rd rs rt
  | .and rd rs rt => Laws.EncodingMatchesRow.and rd rs rt
  | .or rd rs rt => Laws.EncodingMatchesRow.or rd rs rt
  | .xor rd rs rt => Laws.EncodingMatchesRow.xor rd rs rt
  | .slt rd rs rt => Laws.EncodingMatchesRow.slt rd rs rt
  | .sltu rd rs rt => Laws.EncodingMatchesRow.sltu rd rs rt
  | .sll rd rs rt => Laws.EncodingMatchesRow.sll rd rs rt
  | .srl rd rs rt => Laws.EncodingMatchesRow.srl rd rs rt
  | .sra rd rs rt => Laws.EncodingMatchesRow.sra rd rs rt
  | .addi rt rs imm => Laws.EncodingMatchesRow.addi rt rs imm
  | .andi rt rs imm => Laws.EncodingMatchesRow.andi rt rs imm
  | .ori rt rs imm => Laws.EncodingMatchesRow.ori rt rs imm
  | .xori rt rs imm => Laws.EncodingMatchesRow.xori rt rs imm
  | .slti rt rs imm => Laws.EncodingMatchesRow.slti rt rs imm
  | .slli rt rs shamt => Laws.EncodingMatchesRow.slli rt rs shamt
  | .srli rt rs shamt => Laws.EncodingMatchesRow.srli rt rs shamt
  | .srai rt rs shamt => Laws.EncodingMatchesRow.srai rt rs shamt
  | .lui rt imm => Laws.EncodingMatchesRow.lui rt imm
  | .load rt rs imm => Laws.EncodingMatchesRow.load rt rs imm
  | .store rt rs imm => Laws.EncodingMatchesRow.store rt rs imm
  | .beq rs rt imm => Laws.EncodingMatchesRow.beq rs rt imm
  | .bne rs rt imm => Laws.EncodingMatchesRow.bne rs rt imm
  | .blt rs rt imm => Laws.EncodingMatchesRow.blt rs rt imm
  | .bge rs rt imm => Laws.EncodingMatchesRow.bge rs rt imm
  | .j target => Laws.EncodingMatchesRow.j target
  | .jal target => Laws.EncodingMatchesRow.jal target
  | .jr rs => Laws.EncodingMatchesRow.jr rs

/-- A word that decodes matches the row with the mnemonic of its instruction. -/
theorem match_of_decodeWord {w : Word} {i : Instr} (h : decodeWord w = some i) :
    ∃ r ∈ opcodeTable, r.mnemonic = i.mnemonic ∧ w &&& r.mask = r.pattern := by
  obtain ⟨hwf, rfl⟩ := encode_of_decodeWord h
  obtain ⟨r, hr, hname, hmatch⟩ := encodingMatchesRow i hwf
  exact ⟨r, hr, hname, eq_of_beq hmatch⟩

/-- A word matches at most one row. -/
theorem row_eq_of_match {r q : OpRow} (hr : r ∈ opcodeTable) (hq : q ∈ opcodeTable) {w : Word} (h : w &&& r.mask = r.pattern)
    (h' : w &&& q.mask = q.pattern) : r = q :=
  row_eq_of_opcode hr hq ((opcodeOf_of_match hr h).symm.trans (opcodeOf_of_match hq h'))

/-- `valid_word` holds of exactly the words with a meaning (R96). -/
theorem validWord_iff_decodes {w : Word} : validWord w = true ↔ ∃ i, decodeWord w = some i := by
  rw [← decodeWord_isSome, Option.isSome_iff_exists]

/-- A word matches a row exactly when it decodes to an instruction of the row's mnemonic. -/
theorem match_iff_decodes {r : OpRow} (hr : r ∈ opcodeTable) {w : Word} :
    w &&& r.mask = r.pattern ↔ ∃ i, decodeWord w = some i ∧ i.mnemonic = r.mnemonic := by
  constructor
  · intro h
    obtain ⟨i, hi⟩ := validWord_iff_decodes.mp (validWord_of_match hr h)
    obtain ⟨q, hq, hname, hmatch⟩ := match_of_decodeWord hi
    exact ⟨i, hi, row_eq_of_match hr hq h hmatch ▸ hname.symm⟩
  · rintro ⟨i, hi, hname⟩
    obtain ⟨q, hq, hqname, hmatch⟩ := match_of_decodeWord hi
    exact row_eq_of_mnemonic hr hq (hname.symm.trans hqname.symm) ▸ hmatch

/-! Numbers in decimal (R102, R103, R109). -/

theorem isDigit_of_mem_renderNat {n : Nat} {c : Char} (h : c ∈ renderNat n) : c.isDigit = true :=
  Nat.isDigit_of_mem_toDigits (by decide) (by decide) h

theorem parseDecimal_renderNat (n : Nat) : parseDecimal (renderNat n) = some n := by
  rw [parseDecimal, if_pos ⟨Nat.toDigits_ne_nil, List.all_eq_true.mpr fun _ => isDigit_of_mem_renderNat⟩]
  exact congrArg some Nat.ofDigitChars_ten_toDigits

/-- A number of decimal digits alone is no hexadecimal one. -/
theorem parseUnsigned_renderNat (n : Nat) : parseUnsigned (renderNat n) = some n := by
  rw [← parseDecimal_renderNat]
  unfold parseUnsigned
  split
  · next h => exact absurd (isDigit_of_mem_renderNat (n := n) (c := 'x') (by simp [h])) (by decide)
  · next h => exact absurd (isDigit_of_mem_renderNat (n := n) (c := 'X') (by simp [h])) (by decide)
  · rfl

theorem parseInteger_renderNat (n : Nat) : parseInteger (renderNat n) = some (n : Int) := by
  unfold parseInteger
  split
  · next h => exact absurd (isDigit_of_mem_renderNat (n := n) (c := '+') (by simp [h])) (by decide)
  · next h => exact absurd (isDigit_of_mem_renderNat (n := n) (c := '-') (by simp [h])) (by decide)
  · simp [parseUnsigned_renderNat]

theorem renderInt_of_neg {v : Int} (h : v < 0) : renderInt v = '-' :: renderNat v.natAbs := if_pos h

theorem renderInt_of_nonneg {v : Int} (h : ¬v < 0) : renderInt v = renderNat v.natAbs := if_neg h

theorem renderInt_natCast (n : Nat) : renderInt n = renderNat n := if_neg (by omega)

theorem parseInteger_renderInt (v : Int) : parseInteger (renderInt v) = some v := by
  by_cases h : v < 0
  · rw [renderInt_of_neg h, parseInteger, parseUnsigned_renderNat]
    exact congrArg some (show -(v.natAbs : Int) = v by omega)
  · rw [renderInt_of_nonneg h, parseInteger_renderNat]
    exact congrArg some (by omega)

theorem parseRegister_registerToken (n : Nat) : parseRegister (registerToken n) = some n := parseDecimal_renderNat n

/-! The characters of a rendered token (R109): no blank, no comma. -/

/-- A token that the splitting of R101 leaves as it is: not empty, without blanks and commas. -/
def CleanToken (t : List Char) : Prop := t ≠ [] ∧ ∀ c ∈ t, isBlank c = false ∧ c ≠ ','

theorem CleanToken.append {t u : List Char} (ht : CleanToken t) (hu : CleanToken u) : CleanToken (t ++ u) :=
  ⟨by simp [ht.1], fun c hc => (List.mem_append.mp hc).elim (ht.2 c) (hu.2 c)⟩

theorem cleanToken_singleton {c : Char} (h : isBlank c = false ∧ c ≠ ',') : CleanToken [c] := ⟨by simp, by simpa using h⟩

theorem CleanToken.cons {c : Char} {t : List Char} (hc : isBlank c = false ∧ c ≠ ',') (ht : CleanToken t) :
    CleanToken (c :: t) := (cleanToken_singleton hc).append ht

/-- A digit is no blank, no comma and no sign. -/
theorem ne_of_isDigit {c : Char} (h : c.isDigit = true) : isBlank c = false ∧ c ≠ ',' ∧ isSign c = false := by
  have hne {d : Char} (hd : d.isDigit = false) : c ≠ d := fun hcd => absurd h (by simp [hcd, hd])
  have hblank : c ≠ ' ' ∧ c ≠ '\t' := ⟨hne rfl, hne rfl⟩
  have hsign : c ≠ '+' ∧ c ≠ '-' := ⟨hne rfl, hne rfl⟩
  exact ⟨by simp [isBlank, hblank], hne rfl, by simp [isSign, hsign]⟩

theorem cleanToken_renderNat (n : Nat) : CleanToken (renderNat n) := by
  refine ⟨Nat.toDigits_ne_nil, fun c hc => ?_⟩
  obtain ⟨hblank, hcomma, -⟩ := ne_of_isDigit (isDigit_of_mem_renderNat hc)
  exact ⟨hblank, hcomma⟩

theorem cleanToken_renderInt (v : Int) : CleanToken (renderInt v) := by
  by_cases h : v < 0
  · rw [renderInt_of_neg h]
    exact (cleanToken_renderNat _).cons (by decide)
  · rw [renderInt_of_nonneg h]
    exact cleanToken_renderNat _

theorem cleanToken_registerToken (n : Nat) : CleanToken (registerToken n) := (cleanToken_renderNat n).cons (by decide)

/-! Memory operands (R104). -/

/-- A memory operand in brackets is clean when its inner text is. -/
theorem cleanToken_brackets {inner : List Char} (h : CleanToken inner) : CleanToken ('[' :: inner ++ [']']) :=
  (h.cons (by decide)).append (cleanToken_singleton (by decide))

/-- Without blanks to delete, the inner text is what stands between the brackets. -/
theorem parseMemory_brackets {inner : List Char} (h : CleanToken inner) :
    parseMemory ('[' :: inner ++ [']']) = parseMemoryInner inner := by
  have hfilter : inner.filter (!isBlank ·) = inner := List.filter_eq_self.mpr fun c hc => by simp [(h.2 c hc).1]
  simp [parseMemory, hfilter]

/-- An offset alone has base register 0. -/
theorem parseMemoryInner_renderInt (v : Int) : parseMemoryInner (renderInt v) = some (0, v) := by
  rw [parseMemoryInner, parseInteger_renderInt]

theorem not_isSign_registerToken {n : Nat} : ∀ c ∈ registerToken n, (!isSign c) = true := by
  intro c hc
  obtain rfl | hc := List.mem_cons.mp hc
  · rfl
  · obtain ⟨-, -, hsign⟩ := ne_of_isDigit (isDigit_of_mem_renderNat hc)
    simp [hsign]

/-- A token that begins with a register is no integer. -/
theorem parseInteger_registerToken (n : Nat) (rest : List Char) : parseInteger (registerToken n ++ rest) = none := by
  simp [registerToken, parseInteger, parseUnsigned, parseDecimal]

/-- The base of a memory operand ends at the first sign. -/
theorem takeWhile_registerToken (n : Nat) (rest : List Char) :
    (registerToken n ++ rest).takeWhile (!isSign ·) = registerToken n ++ rest.takeWhile (!isSign ·) :=
  List.takeWhile_append_of_pos not_isSign_registerToken

theorem dropWhile_registerToken (n : Nat) (rest : List Char) :
    (registerToken n ++ rest).dropWhile (!isSign ·) = rest.dropWhile (!isSign ·) :=
  List.dropWhile_append_of_pos not_isSign_registerToken

/-- A base register alone has offset 0. -/
theorem parseMemoryInner_registerToken (n : Nat) : parseMemoryInner (registerToken n) = some (n, 0) := by
  rw [← List.append_nil (registerToken n), parseMemoryInner, parseInteger_registerToken, takeWhile_registerToken,
    dropWhile_registerToken]
  simp [parseRegister_registerToken]

theorem parseMemoryInner_plus (n k : Nat) : parseMemoryInner (registerToken n ++ '+' :: renderNat k) = some (n, (k : Int)) := by
  rw [parseMemoryInner, parseInteger_registerToken, takeWhile_registerToken, dropWhile_registerToken]
  simp [isSign, parseRegister_registerToken, parseUnsigned_renderNat]

theorem parseMemoryInner_minus (n k : Nat) : parseMemoryInner (registerToken n ++ '-' :: renderNat k) = some (n, -(k : Int)) := by
  rw [parseMemoryInner, parseInteger_registerToken, takeWhile_registerToken, dropWhile_registerToken]
  simp [isSign, parseRegister_registerToken, parseUnsigned_renderNat]

/-- The token of an offset alone. -/
theorem parseMemory_offset (v : Int) : parseMemory ('[' :: renderInt v ++ [']']) = some (0, v) :=
  (parseMemory_brackets (cleanToken_renderInt v)).trans (parseMemoryInner_renderInt v)

/-- The token of a base register alone. -/
theorem parseMemory_base (n : Nat) : parseMemory ('[' :: registerToken n ++ [']']) = some (n, 0) :=
  (parseMemory_brackets (cleanToken_registerToken n)).trans (parseMemoryInner_registerToken n)

/-- The offset in a memory operand with a base: a sign and a number. -/
def signedOffset (v : Int) : List Char := if v < 0 then renderInt v else '+' :: renderInt v

theorem memoryToken_eq (n : Nat) (v : Int) : memoryToken n v = '[' :: (registerToken n ++ signedOffset v) ++ [']'] := rfl

theorem signedOffset_of_neg {v : Int} (h : v < 0) : signedOffset v = '-' :: renderNat v.natAbs :=
  (if_pos h).trans (renderInt_of_neg h)

theorem signedOffset_of_nonneg {v : Int} (h : ¬v < 0) : signedOffset v = '+' :: renderNat v.natAbs :=
  (if_neg h).trans (congrArg _ (renderInt_of_nonneg h))

theorem cleanToken_signedOffset (v : Int) : CleanToken (signedOffset v) := by
  unfold signedOffset
  split
  · exact cleanToken_renderInt v
  · exact (cleanToken_renderInt v).cons (by decide)

theorem cleanToken_memoryToken (n : Nat) (v : Int) : CleanToken (memoryToken n v) :=
  cleanToken_brackets ((cleanToken_registerToken n).append (cleanToken_signedOffset v))

/-- The token of a base register and an offset. -/
theorem parseMemory_memoryToken (n : Nat) (v : Int) : parseMemory (memoryToken n v) = some (n, v) := by
  rw [memoryToken_eq, parseMemory_brackets ((cleanToken_registerToken n).append (cleanToken_signedOffset v))]
  by_cases h : v < 0
  · rw [signedOffset_of_neg h, parseMemoryInner_minus, show -(v.natAbs : Int) = v by omega]
  · rw [signedOffset_of_nonneg h, parseMemoryInner_plus, show (v.natAbs : Int) = v by omega]

/-! Splitting a line (R101). -/

/-- The text begins and ends with a character that is no blank, so trimming leaves it as it is. -/
def NonblankEnds (t : List Char) : Prop :=
  (∃ c u, t = c :: u ∧ isBlank c = false) ∧ ∃ u c, t = u ++ [c] ∧ isBlank c = false

theorem NonblankEnds.trimBlanks {t : List Char} (h : NonblankEnds t) : trimBlanks t = t := by
  obtain ⟨⟨c, u, hfirst, hc⟩, v, d, hlast, hd⟩ := h
  have hdrop : t.dropWhile isBlank = t := by simp [hfirst, hc]
  rw [Machine.trimBlanks, hdrop, dropTrailingBlanks, hlast]
  simp [hd]

theorem NonblankEnds.append {t u : List Char} (ht : NonblankEnds t) (hu : NonblankEnds u) (mid : List Char) :
    NonblankEnds (t ++ mid ++ u) := by
  obtain ⟨⟨c, t', rfl, hc⟩, -⟩ := ht
  obtain ⟨-, u', d, rfl, hd⟩ := hu
  exact ⟨⟨c, _, rfl, hc⟩, _, d, (List.append_assoc ..).symm, hd⟩

theorem CleanToken.nonblankEnds {t : List Char} (h : CleanToken t) : NonblankEnds t := by
  obtain ⟨hne, hclean⟩ := h
  refine ⟨?_, t.dropLast, t.getLast hne, (List.dropLast_append_getLast hne).symm, (hclean _ (List.getLast_mem hne)).1⟩
  obtain ⟨c, u, rfl⟩ := List.exists_cons_of_ne_nil hne
  exact ⟨c, u, rfl, (hclean c List.mem_cons_self).1⟩

theorem joinOperands_cons_cons (t u : List Char) (us : List (List Char)) :
    joinOperands (t :: u :: us) = t ++ ',' :: ' ' :: joinOperands (u :: us) := rfl

theorem nonblankEnds_joinOperands {tokens : List (List Char)} (hne : tokens ≠ []) (hclean : ∀ t ∈ tokens, CleanToken t) :
    NonblankEnds (joinOperands tokens) := by
  induction tokens with
  | nil => contradiction
  | cons t rest ih =>
    obtain ⟨ht, hrest⟩ := List.forall_mem_cons.mp hclean
    cases rest with
    | nil => exact ht.nonblankEnds
    | cons u us =>
      have happend := ht.nonblankEnds.append (ih (by simp) hrest) [',', ' ']
      rwa [List.append_assoc] at happend

theorem splitCommas_ne_nil (t : List Char) : splitCommas t ≠ [] := by
  cases t with
  | nil => simp [splitCommas]
  | cons c rest =>
    unfold splitCommas
    split
    · simp
    · split <;> simp

theorem splitCommas_cons {c : Char} (hc : c ≠ ',') {rest token : List Char} {tokens : List (List Char)}
    (h : splitCommas rest = token :: tokens) : splitCommas (c :: rest) = (c :: token) :: tokens := by
  simp [splitCommas, hc, h]

/-- Up to the first comma there is one token. -/
theorem splitCommas_append {t : List Char} (ht : ∀ c ∈ t, c ≠ ',') {rest token : List Char} {tokens : List (List Char)}
    (h : splitCommas rest = token :: tokens) : splitCommas (t ++ rest) = (t ++ token) :: tokens := by
  induction t with
  | nil => exact h
  | cons c t ih =>
    obtain ⟨hc, ht⟩ := List.forall_mem_cons.mp ht
    exact splitCommas_cons hc (ih ht)

theorem CleanToken.no_comma {t : List Char} (h : CleanToken t) : ∀ c ∈ t, c ≠ ',' := fun c hc => (h.2 c hc).2

/-- A blank in front of a text is trimmed off its first token. -/
theorem map_trimBlanks_splitCommas_blank (t : List Char) :
    (splitCommas (' ' :: t)).map trimBlanks = (splitCommas t).map trimBlanks := by
  obtain ⟨token, tokens, h⟩ := List.exists_cons_of_ne_nil (splitCommas_ne_nil t)
  rw [splitCommas_cons (by decide) h, h]
  rfl

/-- Splitting joined tokens at the commas and trimming gives the tokens back. -/
theorem map_trimBlanks_splitCommas_joinOperands {tokens : List (List Char)} (hne : tokens ≠ [])
    (hclean : ∀ t ∈ tokens, CleanToken t) : (splitCommas (joinOperands tokens)).map trimBlanks = tokens := by
  induction tokens with
  | nil => contradiction
  | cons t rest ih =>
    obtain ⟨ht, hrest⟩ := List.forall_mem_cons.mp hclean
    cases rest with
    | nil =>
      have hsplit := splitCommas_append ht.no_comma (rest := []) rfl
      simp only [List.append_nil] at hsplit
      simp [joinOperands, hsplit, ht.nonblankEnds.trimBlanks]
    | cons u us =>
      have hsplit := splitCommas_append ht.no_comma (rest := ',' :: ' ' :: joinOperands (u :: us)) rfl
      rw [joinOperands_cons_cons, hsplit, List.map_cons, map_trimBlanks_splitCommas_blank, ih (by simp) hrest, List.append_nil,
        ht.nonblankEnds.trimBlanks]

/-! A line in the canonical spacing (R101, R106). -/

/-- The encoder knows the mnemonics of the opcode map (R94, R105). -/
theorem templates_mnemonics : templates.map Prod.fst = opcodeTable.map OpRow.mnemonic := rfl

/-- A mnemonic is unknown when no row of the opcode map has it, in upper case (R101, R106 step 1). -/
theorem findTemplate_eq_none {token : List Char} :
    findTemplate token = none ↔ ∀ r ∈ opcodeTable, r.mnemonic.toList ≠ token.map Char.toUpper := by
  have hnames : (∀ p ∈ templates, p.1.toList ≠ token.map Char.toUpper) ↔
      ∀ r ∈ opcodeTable, r.mnemonic.toList ≠ token.map Char.toUpper := by
    rw [← List.forall_mem_map (f := Prod.fst) (P := fun name : String => name.toList ≠ token.map Char.toUpper),
      templates_mnemonics, List.forall_mem_map]
  simp only [findTemplate, Option.map_eq_none_iff, List.find?_eq_none, beq_iff_eq]
  exact hnames

/-- A known mnemonic is that of a row, in upper case (R101). -/
theorem mnemonic_of_findTemplate {token : List Char} {t : Template} (h : findTemplate token = some t) :
    ∃ r ∈ opcodeTable, r.mnemonic.toList = token.map Char.toUpper := by
  by_contra hnone
  push Not at hnone
  cases (findTemplate_eq_none.mpr hnone).symm.trans h

theorem mnemonic_nonblank : ∀ r ∈ opcodeTable, r.mnemonic.toList.all (!isBlank ·) = true := by decide

/-- A blank is no letter, so no known mnemonic contains one. -/
theorem nonblank_of_findTemplate {token : List Char} {t : Template} (h : findTemplate token = some t) :
    ∀ c ∈ token, (!isBlank c) = true := by
  intro c hc
  obtain ⟨r, hr, hname⟩ := mnemonic_of_findTemplate h
  have hupper := List.all_eq_true.mp (mnemonic_nonblank r hr) c.toUpper (hname ▸ List.mem_map_of_mem hc)
  by_contra hblank
  have hcases : c = ' ' ∨ c = '\t' := by simpa [isBlank, Decidable.or_iff_not_imp_left] using hblank
  obtain rfl | rfl := hcases <;> exact absurd hupper (by decide)

section
variable {name : String} {t : Template} {tokens : List (List Char)}

theorem mnemonicToken_sourceLine (h : findTemplate name.toList = some t) :
    mnemonicToken (sourceLine name tokens) = name.toList := by
  rw [mnemonicToken, sourceLine, List.takeWhile_append_of_pos (nonblank_of_findTemplate h)]
  simp [isBlank]

theorem operandText_sourceLine (h : findTemplate name.toList = some t) (hne : tokens ≠ [])
    (hclean : ∀ u ∈ tokens, CleanToken u) : operandText (sourceLine name tokens) = joinOperands tokens := by
  rw [operandText, sourceLine, List.dropWhile_append_of_pos (nonblank_of_findTemplate h)]
  exact (nonblankEnds_joinOperands hne hclean).trimBlanks

theorem operandTokens_sourceLine (h : findTemplate name.toList = some t) (hne : tokens ≠ [])
    (hclean : ∀ u ∈ tokens, CleanToken u) : operandTokens (sourceLine name tokens) = tokens := by
  obtain ⟨⟨c, u, hjoin, -⟩, -⟩ := nonblankEnds_joinOperands hne hclean
  rw [operandTokens, operandText_sourceLine h hne hclean, if_neg (by simp [hjoin])]
  exact map_trimBlanks_splitCommas_joinOperands hne hclean

/-- Tokens that parse are as many as the shapes. -/
theorem length_of_parseOperands {shapes : List OperandShape} {tokens : List (List Char)} {os : List Operand}
    (h : parseOperands shapes tokens = some os) : tokens.length = shapes.length := by
  induction shapes generalizing tokens os with
  | nil =>
    cases tokens with
    | nil => rfl
    | cons => cases h
  | cons shape shapes ih =>
    cases tokens with
    | nil => cases h
    | cons u us =>
      simp only [parseOperands, Option.bind_eq_some_iff, Option.map_eq_some_iff] at h
      obtain ⟨_, -, _, hus, -⟩ := h
      simp [ih hus]

/-- Operands that parse and build an instruction assemble exactly when they are in their ranges (R106 steps 2 to 4). -/
theorem assembleOperands_of_parse {os : List Operand} {i : Instr} (hempty : [] ∉ tokens)
    (hparse : parseOperands t.shapes tokens = some os) (hbuild : t.build os = some i) :
    assembleOperands t tokens = if operandsInRange t.shapes os then .ok i else .error .FieldOverflow := by
  simp [assembleOperands, length_of_parseOperands hparse, hempty, hparse, hbuild]

theorem encodeLine_eq_map (line : List Char) : encodeLine line = (assembleLine line).map encode := by
  unfold encodeLine
  cases assembleLine line <;> rfl

theorem encodeLine_of_findTemplate {line : List Char} (h : findTemplate (mnemonicToken line) = some t) :
    encodeLine line = (assembleOperands t (operandTokens line)).map encode := by
  rw [encodeLine_eq_map, assembleLine, h]

/-- A line whose tokens parse encodes exactly when every operand is in its range (R106 steps 4 and 5). -/
theorem encodesIf_sourceLine {os : List Operand} {i : Instr} (h : findTemplate name.toList = some t) (hne : tokens ≠ [])
    (hclean : ∀ u ∈ tokens, CleanToken u) (hparse : parseOperands t.shapes tokens = some os) (hbuild : t.build os = some i) :
    EncodesIf (sourceLine name tokens) (operandsInRange t.shapes os = true) i := by
  have hempty : [] ∉ tokens := fun hmem => (hclean [] hmem).1 rfl
  have hname : findTemplate (mnemonicToken (sourceLine name tokens)) = some t := (congrArg _ (mnemonicToken_sourceLine h)).trans h
  have hline := encodeLine_of_findTemplate hname
  rw [operandTokens_sourceLine h hne hclean, assembleOperands_of_parse hempty hparse hbuild] at hline
  exact ⟨fun hrange => hline.trans (by rw [if_pos hrange]; rfl), fun hrange => hline.trans (by rw [if_neg hrange]; rfl)⟩

theorem EncodesIf.congr {line : List Char} {p q : Prop} {i : Instr} (h : EncodesIf line p i) (hpq : p ↔ q) : EncodesIf line q i :=
  propext hpq ▸ h

end

/-! One rule per format, for every register number and every integer (R92, R93). -/

section
variable {t : Template} {lo hi : Int}

/-- Format R. -/
theorem registersRule {mk : RegIx → RegIx → RegIx → Instr} (h : findTemplate (mk 0 0 0).mnemonic.toList = some (.r mk)) :
    RegistersRule mk := by
  intro d s t
  refine (encodesIf_sourceLine (os := [.register d, .register s, .register t]) h (by simp)
    (by simp [cleanToken_registerToken]) ?_ rfl).congr ?_
  · simp [Template.shapes, parseOperands, parseOperand, parseRegister_registerToken]
  · simp [Template.shapes, operandsInRange, operandInRange]

/-- Formats IS, IU, IH and B: two registers and an integer. -/
theorem twoRegistersInteger {mk : RegIx → RegIx → Imm16 → Instr} (h : findTemplate (mk 0 0 0).mnemonic.toList = some t)
    (hshapes : t.shapes = [.register, .register, .integer lo hi])
    (hbuild : ∀ a b v, t.build [.register a, .register b, .integer v] = some (mk (regField a) (regField b) (immField v)))
    (a b : Nat) (v : Int) :
    EncodesIf (sourceLine (mk 0 0 0).mnemonic [registerToken a, registerToken b, renderInt v])
      (a ≤ 31 ∧ b ≤ 31 ∧ lo ≤ v ∧ v ≤ hi) (mk (regField a) (regField b) (immField v)) := by
  refine (encodesIf_sourceLine (os := [.register a, .register b, .integer v]) h (by simp)
    (by simp [cleanToken_registerToken, cleanToken_renderInt]) ?_ (hbuild a b v)).congr ?_
  · simp [hshapes, parseOperands, parseOperand, parseRegister_registerToken, parseInteger_renderInt]
  · simp [hshapes, operandsInRange, operandInRange]

/-- Format L, which is LUI's alone: a register and an unsigned integer. -/
theorem luiLine (a : Nat) (v : Int) :
    EncodesIf (sourceLine "LUI" [registerToken a, renderInt v]) (a ≤ 31 ∧ 0 ≤ v ∧ v ≤ 65535)
      (.lui (regField a) (immField v)) := by
  refine (encodesIf_sourceLine (t := .l .lui) (os := [.register a, .integer v]) rfl (by simp)
    (by simp [cleanToken_registerToken, cleanToken_renderInt]) ?_ rfl).congr ?_
  · simp [Template.shapes, OperandShape.unsigned16, parseOperands, parseOperand, parseRegister_registerToken,
      parseInteger_renderInt]
  · simp [Template.shapes, OperandShape.unsigned16, operandsInRange, operandInRange]

/-- Format M: a register and any spelling of a memory operand. -/
theorem registerMemory {mk : RegIx → RegIx → Imm16 → Instr} (h : findTemplate (mk 0 0 0).mnemonic.toList = some (.m mk))
    {token : List Char} {base : Nat} {v : Int} (hclean : CleanToken token) (hparse : parseMemory token = some (base, v))
    (a : Nat) :
    EncodesIf (sourceLine (mk 0 0 0).mnemonic [registerToken a, token])
      (a ≤ 31 ∧ base ≤ 31 ∧ -32768 ≤ v ∧ v ≤ 32767) (mk (regField a) (regField base) (immField v)) := by
  refine (encodesIf_sourceLine (os := [.register a, .memory base v]) h (by simp)
    (by simp [cleanToken_registerToken, hclean]) ?_ rfl).congr ?_
  · simp [Template.shapes, parseOperands, parseOperand, parseRegister_registerToken, hparse]
  · simp [Template.shapes, operandsInRange, operandInRange]

/-- Format J. -/
theorem targetRule {mk : Target26 → Instr} (h : findTemplate (mk 0).mnemonic.toList = some (.j mk)) : TargetRule mk := by
  intro v
  refine (encodesIf_sourceLine (os := [.integer v]) h (by simp) (by simp [cleanToken_renderInt]) ?_ rfl).congr ?_
  · simp [Template.shapes, OperandShape.target26, parseOperands, parseOperand, parseInteger_renderInt]
  · simp [Template.shapes, OperandShape.target26, operandsInRange, operandInRange]

/-- Format JR, which is JR's alone. -/
theorem jrLine (a : Nat) : EncodesIf (sourceLine "JR" [registerToken a]) (a ≤ 31) (.jr (regField a)) := by
  refine (encodesIf_sourceLine (t := .jr .jr) (os := [.register a]) rfl (by simp)
    (by simp [cleanToken_registerToken]) ?_ rfl).congr ?_
  · simp [Template.shapes, parseOperands, parseOperand, parseRegister_registerToken]
  · simp [Template.shapes, operandsInRange, operandInRange]

/-! The same with existing registers, or with an integer in every range. -/

@[simp] theorem regField_toNat (r : RegIx) : regField r.toNat = r := by simp [regField]

theorem toNat_le_31 (r : RegIx) : r.toNat ≤ 31 := Nat.le_of_lt_succ r.isLt

theorem integerThirdRule {mk : RegIx → RegIx → Imm16 → Instr} (h : findTemplate (mk 0 0 0).mnemonic.toList = some t)
    (hshapes : t.shapes = [.register, .register, .integer lo hi])
    (hbuild : ∀ a b v, t.build [.register a, .register b, .integer v] = some (mk (regField a) (regField b) (immField v))) :
    IntegerThirdRule mk lo hi := by
  intro r q v
  have hline := twoRegistersInteger h hshapes hbuild r.toNat q.toNat v
  rw [regField_toNat, regField_toNat] at hline
  exact hline.congr (by simp [toNat_le_31])

theorem registersBeforeIntegerRule {mk : RegIx → RegIx → Imm16 → Instr} (h : findTemplate (mk 0 0 0).mnemonic.toList = some t)
    (hshapes : t.shapes = [.register, .register, .integer lo hi])
    (hbuild : ∀ a b v, t.build [.register a, .register b, .integer v] = some (mk (regField a) (regField b) (immField v)))
    (hzero : lo ≤ 0 ∧ 0 ≤ hi) : RegistersBeforeIntegerRule mk :=
  fun r q => (twoRegistersInteger h hshapes hbuild r q 0).congr (by simp [hzero])

theorem offsetRule {mk : RegIx → RegIx → Imm16 → Instr} (h : findTemplate (mk 0 0 0).mnemonic.toList = some (.m mk)) :
    OffsetRule mk := by
  intro r base v
  have hbase := registerMemory h (cleanToken_memoryToken base.toNat v) (parseMemory_memoryToken base.toNat v) r.toNat
  have halone := registerMemory h (cleanToken_brackets (cleanToken_renderInt v)) (parseMemory_offset v) r.toNat
  rw [regField_toNat, regField_toNat] at hbase
  rw [regField_toNat] at halone
  exact ⟨hbase.congr (by simp [toNat_le_31]), halone.congr (by simp [toNat_le_31])⟩

theorem registerAndBaseRule {mk : RegIx → RegIx → Imm16 → Instr} (h : findTemplate (mk 0 0 0).mnemonic.toList = some (.m mk)) :
    RegisterAndBaseRule mk := fun r base =>
  (registerMemory h (cleanToken_brackets (cleanToken_registerToken base)) (parseMemory_base base) r).congr (by simp)

/-- LUI with an existing register, and with an immediate in range. -/
theorem luiRule (r : RegIx) (v : Int) :
    EncodesIf (sourceLine "LUI" [renderRegister r, renderInt v]) (0 ≤ v ∧ v ≤ 65535) (.lui r (BitVec.ofInt 16 v)) := by
  have hline := luiLine r.toNat v
  rw [regField_toNat] at hline
  exact hline.congr (by simp [toNat_le_31])

end

end Sys2Proof.Machine

open Sys2Proof Sys2Proof.Machine

/-! The ranges of operands in a source line: the rule of each format, for each instruction. -/

/-- Settles O56: the rule of each format, with the registers at most 31. -/
theorem integerOperandRanges : Obligations.IntegerOperandRanges :=
  ⟨integerThirdRule rfl rfl fun _ _ _ => rfl, integerThirdRule rfl rfl fun _ _ _ => rfl,
    integerThirdRule rfl rfl fun _ _ _ => rfl, integerThirdRule rfl rfl fun _ _ _ => rfl,
    integerThirdRule rfl rfl fun _ _ _ => rfl, integerThirdRule rfl rfl fun _ _ _ => rfl,
    integerThirdRule rfl rfl fun _ _ _ => rfl, integerThirdRule rfl rfl fun _ _ _ => rfl,
    luiRule, offsetRule rfl, offsetRule rfl,
    integerThirdRule rfl rfl fun _ _ _ => rfl, integerThirdRule rfl rfl fun _ _ _ => rfl,
    integerThirdRule rfl rfl fun _ _ _ => rfl, integerThirdRule rfl rfl fun _ _ _ => rfl,
    targetRule rfl, targetRule rfl⟩

/-- Settles O57: the rule of each format, with the integer in its range. -/
theorem registerOperandRanges : Obligations.RegisterOperandRanges :=
  ⟨registersRule rfl, registersRule rfl, registersRule rfl, registersRule rfl, registersRule rfl,
    registersRule rfl, registersRule rfl, registersRule rfl, registersRule rfl, registersRule rfl,
    registersBeforeIntegerRule rfl rfl (fun _ _ _ => rfl) (by decide),
    registersBeforeIntegerRule rfl rfl (fun _ _ _ => rfl) (by decide),
    registersBeforeIntegerRule rfl rfl (fun _ _ _ => rfl) (by decide),
    registersBeforeIntegerRule rfl rfl (fun _ _ _ => rfl) (by decide),
    registersBeforeIntegerRule rfl rfl (fun _ _ _ => rfl) (by decide),
    registersBeforeIntegerRule rfl rfl (fun _ _ _ => rfl) (by decide),
    registersBeforeIntegerRule rfl rfl (fun _ _ _ => rfl) (by decide),
    registersBeforeIntegerRule rfl rfl (fun _ _ _ => rfl) (by decide),
    fun r => (luiLine r 0).congr (by simp), registerAndBaseRule rfl, registerAndBaseRule rfl,
    registersBeforeIntegerRule rfl rfl (fun _ _ _ => rfl) (by decide),
    registersBeforeIntegerRule rfl rfl (fun _ _ _ => rfl) (by decide),
    registersBeforeIntegerRule rfl rfl (fun _ _ _ => rfl) (by decide),
    registersBeforeIntegerRule rfl rfl (fun _ _ _ => rfl) (by decide),
    jrLine⟩

namespace Sys2Proof.Machine

/-! The canonical text of an instruction (R109), encoded. -/

section
variable {mk : RegIx → RegIx → Imm16 → Instr}

/-- The shift amounts of format IH are those up to 31 (R92). -/
theorem shamtInRange_iff {shamt : Imm16} : shamtInRange shamt = true ↔ shamt.toNat ≤ 31 := by
  rw [shamtInRange, beq_iff_eq, ← BitVec.toNat_inj]
  simp only [BitVec.extractLsb'_toNat, Nat.shiftRight_eq_div_pow, BitVec.ofNat_eq_ofNat, BitVec.toNat_ofNat]
  omega

theorem toInt_imm16_range (imm : Imm16) : -32768 ≤ imm.toInt ∧ imm.toInt ≤ 32767 := by
  have hle := BitVec.le_toInt imm
  have hlt := BitVec.toInt_lt (x := imm)
  omega

theorem encodeLine_signed (h : IntegerThirdRule mk (-32768) 32767) (r q : RegIx) (imm : Imm16) :
    encodeLine (sourceLine (mk 0 0 0).mnemonic [renderRegister r, renderRegister q, renderSigned imm]) =
      .ok (encode (mk r q imm)) := by
  rw [renderSigned, (h r q imm.toInt).1 (toInt_imm16_range imm), BitVec.ofInt_toInt]

theorem encodeLine_unsigned {hi : Nat} (h : IntegerThirdRule mk 0 hi) (r q : RegIx) {imm : Imm16}
    (himm : imm.toNat ≤ hi) :
    encodeLine (sourceLine (mk 0 0 0).mnemonic [renderRegister r, renderRegister q, renderUnsigned imm]) =
      .ok (encode (mk r q imm)) := by
  rw [renderUnsigned, ← renderInt_natCast, (h r q imm.toNat).1 (by omega), BitVec.ofInt_natCast, BitVec.ofNat_toNat,
    BitVec.setWidth_eq]

/-- The four spellings of a memory operand (R109): offset alone, base alone, base plus offset, base minus offset. -/
theorem encodeLine_memory (h : OffsetRule mk) (hbase : RegisterAndBaseRule mk) (r q : RegIx) (imm : Imm16) :
    encodeLine (sourceLine (mk 0 0 0).mnemonic [renderRegister r, renderMemory q imm]) = .ok (encode (mk r q imm)) := by
  have hrange := toInt_imm16_range imm
  obtain ⟨⟨hoffset, -⟩, halone, -⟩ := h r q imm.toInt
  specialize hoffset hrange
  specialize halone hrange
  rw [BitVec.ofInt_toInt] at hoffset halone
  by_cases hq : q = 0
  · subst hq
    exact halone
  by_cases hzero : imm.toInt = 0
  · have himm : imm = 0 := BitVec.eq_of_toInt_eq hzero
    subst himm
    have hline := (hbase r.toNat q.toNat).1 ⟨toNat_le_31 r, toNat_le_31 q⟩
    simp only [BitVec.ofNat_toNat, BitVec.setWidth_eq] at hline
    rw [renderMemory, renderMemoryInner, if_neg hq, if_pos hzero]
    exact hline
  · rw [renderMemory, renderMemoryInner, if_neg hq, if_neg hzero]
    rw [memoryToken_eq] at hoffset
    split
    · next hpos =>
      rwa [signedOffset_of_nonneg (by omega)] at hoffset
    · next hneg =>
      rwa [signedOffset_of_neg (by omega)] at hoffset

end

theorem encodeLine_registers {mk : RegIx → RegIx → RegIx → Instr} (h : RegistersRule mk) (rd rs rt : RegIx) :
    encodeLine (sourceLine (mk 0 0 0).mnemonic [renderRegister rd, renderRegister rs, renderRegister rt]) =
      .ok (encode (mk rd rs rt)) := by
  have hline := (h rd.toNat rs.toNat rt.toNat).1 ⟨toNat_le_31 rd, toNat_le_31 rs, toNat_le_31 rt⟩
  simp only [BitVec.ofNat_toNat, BitVec.setWidth_eq] at hline
  exact hline

theorem encodeLine_target {mk : Target26 → Instr} (h : TargetRule mk) (target : Target26) :
    encodeLine (sourceLine (mk 0).mnemonic [renderNat target.toNat]) = .ok (encode (mk target)) := by
  rw [← renderInt_natCast, (h target.toNat).1 (by omega), BitVec.ofInt_natCast, BitVec.ofNat_toNat, BitVec.setWidth_eq]

/-- The canonical text of a well-formed instruction encodes to its word: its operands are in their ranges. -/
theorem encodeLine_renderInstr {i : Instr} (h : i.wf = true) : encodeLine (renderInstr i) = .ok (encode i) := by
  obtain ⟨haddi, hslti, handi, hori, hxori, hslli, hsrli, hsrai, hlui, hload, hstore, hbeq, hbne, hblt, hbge, hj, hjal⟩ :=
    integerOperandRanges
  obtain ⟨hadd, hsub, hand, hor, hxor, hslt, hsltu, hsll, hsrl, hsra, -, -, -, -, -, -, -, -, -, hloadBase, hstoreBase, -, -, -, -,
    hjr⟩ := registerOperandRanges
  cases i
  case nop => rfl
  case add rd rs rt => exact encodeLine_registers hadd rd rs rt
  case sub rd rs rt => exact encodeLine_registers hsub rd rs rt
  case and rd rs rt => exact encodeLine_registers hand rd rs rt
  case or rd rs rt => exact encodeLine_registers hor rd rs rt
  case xor rd rs rt => exact encodeLine_registers hxor rd rs rt
  case slt rd rs rt => exact encodeLine_registers hslt rd rs rt
  case sltu rd rs rt => exact encodeLine_registers hsltu rd rs rt
  case sll rd rs rt => exact encodeLine_registers hsll rd rs rt
  case srl rd rs rt => exact encodeLine_registers hsrl rd rs rt
  case sra rd rs rt => exact encodeLine_registers hsra rd rs rt
  case addi rt rs imm => exact encodeLine_signed haddi rt rs imm
  case slti rt rs imm => exact encodeLine_signed hslti rt rs imm
  case andi rt rs imm => exact encodeLine_unsigned handi rt rs (Nat.le_of_lt_succ imm.isLt)
  case ori rt rs imm => exact encodeLine_unsigned hori rt rs (Nat.le_of_lt_succ imm.isLt)
  case xori rt rs imm => exact encodeLine_unsigned hxori rt rs (Nat.le_of_lt_succ imm.isLt)
  case slli rt rs shamt => exact encodeLine_unsigned hslli rt rs (shamtInRange_iff.mp h)
  case srli rt rs shamt => exact encodeLine_unsigned hsrli rt rs (shamtInRange_iff.mp h)
  case srai rt rs shamt => exact encodeLine_unsigned hsrai rt rs (shamtInRange_iff.mp h)
  case lui rt imm =>
    have hline := (hlui rt imm.toNat).1 (by omega)
    rw [renderInt_natCast, BitVec.ofInt_natCast, BitVec.ofNat_toNat, BitVec.setWidth_eq] at hline
    exact hline
  case load rt rs imm => exact encodeLine_memory hload hloadBase rt rs imm
  case store rt rs imm => exact encodeLine_memory hstore hstoreBase rt rs imm
  case beq rs rt imm => exact encodeLine_signed hbeq rs rt imm
  case bne rs rt imm => exact encodeLine_signed hbne rs rt imm
  case blt rs rt imm => exact encodeLine_signed hblt rs rt imm
  case bge rs rt imm => exact encodeLine_signed hbge rs rt imm
  case j target => exact encodeLine_target hj target
  case jal target => exact encodeLine_target hjal target
  case jr rs =>
    have hline := (hjr rs.toNat).1 (toNat_le_31 rs)
    rw [BitVec.ofNat_toNat, BitVec.setWidth_eq] at hline
    exact hline

/-! What a line assembles to (R106). -/

/-- The operand has the shape that R105 expects at its position. -/
def OperandShape.admits : OperandShape → Operand → Bool
  | .register, .register _ => true
  | .integer _ _, .integer _ => true
  | .memory, .memory _ _ => true
  | _, _ => false

theorem admits_of_parseOperand {shape : OperandShape} {token : List Char} {o : Operand}
    (h : parseOperand shape token = some o) : shape.admits o = true := by
  cases shape <;> obtain ⟨_, -, rfl⟩ := Option.map_eq_some_iff.mp h <;> rfl

theorem admits_of_parseOperands {shapes : List OperandShape} {tokens : List (List Char)} {os : List Operand}
    (h : parseOperands shapes tokens = some os) : List.Forall₂ (fun shape o => shape.admits o = true) shapes os := by
  induction shapes generalizing tokens os with
  | nil =>
    cases tokens with
    | nil => cases h; exact .nil
    | cons => cases h
  | cons shape shapes ih =>
    cases tokens with
    | nil => cases h
    | cons token tokens =>
      simp only [parseOperands, Option.bind_eq_some_iff, Option.map_eq_some_iff] at h
      obtain ⟨o, ho, os', hos, rfl⟩ := h
      exact .cons (admits_of_parseOperand ho) (ih hos)

theorem admits_register {o : Operand} : OperandShape.register.admits o = true ↔ ∃ n, o = .register n := by
  cases o <;> simp [OperandShape.admits]

theorem admits_integer {lo hi : Int} {o : Operand} : (OperandShape.integer lo hi).admits o = true ↔ ∃ v, o = .integer v := by
  cases o <;> simp [OperandShape.admits]

theorem admits_memory {o : Operand} : OperandShape.memory.admits o = true ↔ ∃ base v, o = .memory base v := by
  cases o <;> simp [OperandShape.admits]

/-- Operands of a template's shapes build an instruction. -/
theorem build_of_admits {t : Template} {os : List Operand}
    (h : List.Forall₂ (fun shape o => shape.admits o = true) t.shapes os) : ∃ i, t.build os = some i := by
  cases t <;>
    simp only [Template.shapes, OperandShape.signed16, OperandShape.unsigned16, OperandShape.shift, OperandShape.target26,
      List.forall₂_cons_left_iff, List.forall₂_nil_left_iff, admits_register, admits_integer, admits_memory, exists_and_left,
      ↓existsAndEq, true_and, ← exists_and_right] at h
  case n =>
    obtain rfl := h
    exact ⟨_, rfl⟩
  case r | is | iu | ih | m | b =>
    obtain ⟨_, _, _, rfl⟩ := h
    exact ⟨_, rfl⟩
  case l =>
    obtain ⟨_, _, rfl⟩ := h
    exact ⟨_, rfl⟩
  case j | jr =>
    obtain ⟨_, rfl⟩ := h
    exact ⟨_, rfl⟩

/-- The instructions of a template are well formed when the field of a shift amount is in its range. -/
def Template.BuildsWf : Template → Prop
  | .n i => i.wf = true
  | .r mk => ∀ rd rs rt, (mk rd rs rt).wf = true
  | .is mk | .iu mk | .m mk => ∀ rt rs imm, (mk rt rs imm).wf = true
  | .ih mk => ∀ rt rs shamt, shamtInRange shamt = true → (mk rt rs shamt).wf = true
  | .l mk => ∀ rt imm, (mk rt imm).wf = true
  | .b mk => ∀ rs rt imm, (mk rs rt imm).wf = true
  | .j mk => ∀ target, (mk target).wf = true
  | .jr mk => ∀ rs, (mk rs).wf = true

theorem templates_buildsWf : ∀ p ∈ templates, p.2.BuildsWf := by
  simp [templates, registerTemplates, immediateTemplates, memoryAndTransferTemplates, Template.BuildsWf, Instr.wf]

theorem buildsWf_of_findTemplate {token : List Char} {t : Template} (h : findTemplate token = some t) : t.BuildsWf := by
  obtain ⟨p, hp, rfl⟩ := Option.map_eq_some_iff.mp h
  exact templates_buildsWf p (List.mem_of_find?_eq_some hp)

/-- An integer from 0 to 31 is a well-formed shift amount. -/
theorem shamtInRange_immField {v : Int} (h : 0 ≤ v ∧ v ≤ 31) : shamtInRange (immField v) = true := by
  rw [shamtInRange_iff, immField, BitVec.toNat_ofInt]
  omega

/-- Operands in their ranges build a well-formed instruction. -/
theorem wf_of_build {t : Template} (ht : t.BuildsWf) {os : List Operand} {i : Instr} (hbuild : t.build os = some i)
    (hrange : operandsInRange t.shapes os = true) : i.wf = true := by
  unfold Template.build at hbuild
  split at hbuild <;> cases hbuild
  case h_5 =>
    obtain ⟨-, -, hshift⟩ : _ ∧ _ ∧ _ := by
      simpa [Template.shapes, OperandShape.shift, operandsInRange, operandInRange] using hrange
    exact ht _ _ _ (shamtInRange_immField hshift)
  all_goals apply ht

/-- What assembles has passed every check of R106. -/
theorem assembleOperands_ok {t : Template} {tokens : List (List Char)} {i : Instr} (h : assembleOperands t tokens = .ok i) :
    ∃ os, operandsInRange t.shapes os = true ∧ t.build os = some i := by
  unfold assembleOperands at h
  split at h
  · cases h
  · split at h
    · cases h
    · split at h
      · split at h
        · cases h; exact ⟨_, ‹_›, ‹_›⟩
        · cases h
      · cases h

/-- What a line assembles to is well formed. -/
theorem wf_of_assembleLine {line : List Char} {i : Instr} (h : assembleLine line = .ok i) : i.wf = true := by
  unfold assembleLine at h
  split at h
  · cases h
  · next t ht =>
    obtain ⟨os, hrange, hbuild⟩ := assembleOperands_ok h
    exact wf_of_build (buildsWf_of_findTemplate ht) hbuild hrange

/-- A line encodes to the word of the instruction it stands for. -/
theorem encodeLine_ok {line : List Char} {w : Word} :
    encodeLine line = .ok w ↔ ∃ i, assembleLine line = .ok i ∧ encode i = w := by
  rw [encodeLine_eq_map]
  cases assembleLine line <;> simp [Except.map]

/-- Every word that `encode` returns is valid (R96). -/
theorem validWord_of_encodeLine {line : List Char} {w : Word} (h : encodeLine line = .ok w) : validWord w = true := by
  obtain ⟨i, hi, rfl⟩ := encodeLine_ok.mp h
  exact validWord_iff_decodes.mpr ⟨i, decodeWord_encode (wf_of_assembleLine hi)⟩

theorem decodeText_of_decodeWord {w : Word} {i : Instr} (h : decodeWord w = some i) : decodeText w = renderInstr i := by
  rw [decodeText, h]

/-- `encode(decode(w)) = w` for a valid word (R96, R110). -/
theorem encodeLine_decodeText {w : Word} (h : validWord w = true) : encodeLine (decodeText w) = .ok w := by
  obtain ⟨i, hi⟩ := validWord_iff_decodes.mp h
  obtain ⟨hwf, rfl⟩ := encode_of_decodeWord hi
  rw [decodeText_of_decodeWord hi, encodeLine_renderInstr hwf]

/-! Loading (R100, R107, R108). -/

/-- A line that does not stop a load: it is skipped, or it encodes. -/
def LineLoads (line : List Char) : Prop := stripLine line = [] ∨ ∃ w, encodeLine (stripLine line) = .ok w

/-- `e` names the first of the lines, counted from `n`, that stops a load. -/
def FirstBadLine (n : Nat) (lines : List (List Char)) (e : LoadError) : Prop :=
  n ≤ e.line ∧ lines[e.line - n]? = some e.text ∧ stripLine e.text ≠ [] ∧ encodeLine (stripLine e.text) = .error e.kind ∧
    ∀ k line, k < e.line - n → lines[k]? = some line → LineLoads line

theorem FirstBadLine.cons {n : Nat} {line : List Char} {rest : List (List Char)} {e : LoadError} (hline : LineLoads line)
    (h : FirstBadLine (n + 1) rest e) : FirstBadLine n (line :: rest) e := by
  obtain ⟨hle, htext, hstrip, hkind, hearlier⟩ := h
  have hindex : e.line - n = e.line - (n + 1) + 1 := by omega
  refine ⟨by omega, by rw [hindex]; exact htext, hstrip, hkind, fun k l hk hl => ?_⟩
  cases k with
  | zero => cases hl; exact hline
  | succ k => exact hearlier k l (by omega) hl

/-- The cases of a load that has a line: the line is skipped, stops the load, or gives the first word. -/
theorem loadFrom_cons (n : Nat) (line : List Char) (rest : List (List Char)) :
    (stripLine line = [] ∧ loadFrom n (line :: rest) = loadFrom (n + 1) rest) ∨
    (stripLine line ≠ [] ∧ ∃ kind, encodeLine (stripLine line) = .error kind ∧
      loadFrom n (line :: rest) = .error { line := n, text := line, kind := kind }) ∨
    (stripLine line ≠ [] ∧ ∃ w, encodeLine (stripLine line) = .ok w ∧
      loadFrom n (line :: rest) = (loadFrom (n + 1) rest).map (w :: ·)) := by
  by_cases hstrip : stripLine line = []
  · exact .inl ⟨hstrip, by simp [loadFrom, hstrip]⟩
  cases henc : encodeLine (stripLine line) with
  | error kind => exact .inr (.inl ⟨hstrip, kind, rfl, by simp [loadFrom, hstrip, henc]⟩)
  | ok w =>
    refine .inr (.inr ⟨hstrip, w, rfl, ?_⟩)
    rw [loadFrom, if_neg hstrip, henc]
    cases loadFrom (n + 1) rest <;> rfl

/-- A load error names the first line that stops the load. -/
theorem firstBadLine_of_loadFrom {n : Nat} {lines : List (List Char)} {e : LoadError} (h : loadFrom n lines = .error e) :
    FirstBadLine n lines e := by
  induction lines generalizing n with
  | nil => cases h
  | cons line rest ih =>
    obtain ⟨hstrip, hload⟩ | ⟨hstrip, kind, henc, hload⟩ | ⟨hstrip, w, henc, hload⟩ := loadFrom_cons n line rest <;>
      rw [hload] at h
    · exact (ih h).cons (.inl hstrip)
    · cases h
      exact ⟨le_refl n, by simp, hstrip, henc, fun k _ hk => by simp at hk⟩
    · refine (ih ?_).cons (.inr ⟨w, henc⟩)
      cases hrest : loadFrom (n + 1) rest <;> rw [hrest] at h <;> cases h
      rfl

/-- A load that succeeds gives the words of the lines that are not skipped, in order. -/
theorem words_of_loadFrom {n : Nat} {lines : List (List Char)} {ws : List Word} (h : loadFrom n lines = .ok ws) :
    ((lines.map stripLine).filter fun l => l ≠ []).map encodeLine = ws.map .ok := by
  induction lines generalizing n ws with
  | nil => cases h; rfl
  | cons line rest ih =>
    obtain ⟨hstrip, hload⟩ | ⟨hstrip, kind, henc, hload⟩ | ⟨hstrip, w, henc, hload⟩ := loadFrom_cons n line rest <;>
      rw [hload] at h
    · simpa [hstrip] using ih h
    · cases h
    · cases hrest : loadFrom (n + 1) rest <;> rw [hrest] at h <;> cases h
      simpa [hstrip, henc] using ih hrest

/-- The words of a load are valid: each is the word of a line. -/
theorem validWord_of_loadFrom {n : Nat} {lines : List (List Char)} {ws : List Word} (h : loadFrom n lines = .ok ws) :
    ∀ w ∈ ws, validWord w = true := by
  intro w hw
  have hmem : Except.ok w ∈ ws.map (Except.ok (ε := ErrorKind)) := List.mem_map_of_mem hw
  rw [← words_of_loadFrom h] at hmem
  obtain ⟨line, -, henc⟩ := List.mem_map.mp hmem
  exact validWord_of_encodeLine henc

/-! The registers an instruction takes values from (R95, R213). -/

/-- The decoder's fields under the reads signals are the source operands. -/
theorem wordReads_encode {i : Instr} (h : i.wf = true) (r : RegIx) : wordReads (encode i) r = true ↔ r ∈ sourceRegs i := by
  rw [wordReads, decodeWord_encode h]
  cases i <;>
    simp [encode, controlOf, Control.register, Control.immediate, Control.branch, Control.idle, sourceRegs, eq_comm (b := r)]

/-- After the same write a register reads the same, whatever the register file held. -/
theorem readReg_writeReg_congr (s u : State) (r : RegIx) (v : Word) :
    (u.writeReg r v).readReg r = (s.writeReg r v).readReg r := by
  by_cases hr : r = 0
  · subst hr; rfl
  · rw [readReg_writeReg, readReg_writeReg, if_pos ⟨rfl, hr⟩, if_pos ⟨rfl, hr⟩]

/-- With other contents in registers that are no source operand, an instruction does the same: the same write of its destination
or of data memory, if any, and the same pc. -/
theorem exec_of_same_sources {i : Instr} {s : State} {y : RegFile} (h : ∀ r ∈ sourceRegs i, RegFile.read y r = s.readReg r) :
    let u := { s with x := y }
    (∃ v target, exec i s = .next ((s.writeReg (destReg i) v).setPc target) ∧
      exec i u = .next ((u.writeReg (destReg i) v).setPc target)) ∨
    (controlOf i).regWrite = false ∧
      ((∃ addr v target, exec i s = .next ((s.memWrite addr v).setPc target) ∧
        exec i u = .next ((u.memWrite addr v).setPc target)) ∨
      ∃ target, exec i s = .next (s.setPc target) ∧ exec i u = .next (u.setPc target)) := by
  intro u
  cases i
  case nop | j => exact .inr ⟨rfl, .inr ⟨_, rfl, rfl⟩⟩
  case lui | jal => exact .inl ⟨_, _, rfl, rfl⟩
  case jr rs =>
    refine .inr ⟨rfl, .inr ⟨_, rfl, ?_⟩⟩
    rw [← h rs (by simp [sourceRegs])]
    rfl
  case store rt rs imm =>
    refine .inr ⟨rfl, .inl ⟨_, _, _, rfl, ?_⟩⟩
    rw [State.dataAddress, ← h rs (by simp [sourceRegs]), ← h rt (by simp [sourceRegs])]
    rfl
  case beq rs rt imm | bne rs rt imm | blt rs rt imm | bge rs rt imm =>
    refine .inr ⟨rfl, .inr ⟨_, congrArg Host.Outcome.next (branch_eq s ..), ?_⟩⟩
    rw [← h rs (by simp [sourceRegs]), ← h rt (by simp [sourceRegs])]
    exact congrArg Host.Outcome.next (branch_eq u ..)
  case load rt rs imm =>
    refine .inl ⟨_, _, rfl, ?_⟩
    rw [State.dataAddress, ← h rs (by simp [sourceRegs])]
    rfl
  case addi rt rs imm | andi rt rs imm | ori rt rs imm | xori rt rs imm | slti rt rs imm | slli rt rs imm | srli rt rs imm |
      srai rt rs imm =>
    refine .inl ⟨_, _, rfl, ?_⟩
    rw [← h rs (by simp [sourceRegs])]
    rfl
  case add rd rs rt | sub rd rs rt | and rd rs rt | or rd rs rt | xor rd rs rt | slt rd rs rt | sltu rd rs rt | sll rd rs rt |
      srl rd rs rt | sra rd rs rt =>
    refine .inl ⟨_, _, rfl, ?_⟩
    rw [← h rs (by simp [sourceRegs]), ← h rt (by simp [sourceRegs])]
    rfl

end Sys2Proof.Machine

/-! The other obligations of 30_encoding.md. -/

/-- Settles O1: each decoder reads the fields that its encoder placed. -/
theorem decodeInvertsEncode : Obligations.DecodeInvertsEncode := fun _ => decodeWord_encode

/-- Settles O2: a word is put together again from its opcode, its fields and the field that must be zero. -/
theorem encodeInvertsDecode : Obligations.EncodeInvertsDecode := fun _ _ => encode_of_decodeWord

/-- Settles O3: a word that matches a row decodes, what decodes matches its row, and the canonical text encodes. -/
theorem validWordsAreTheImageOfEncode : Obligations.ValidWordsAreTheImageOfEncode := by
  refine fun w => ⟨⟨fun h => ?_, fun ⟨r, hr, hmatch⟩ => validWord_of_match hr hmatch⟩,
    ⟨fun h => ⟨_, encodeLine_decodeText h⟩, fun ⟨_, hline⟩ => validWord_of_encodeLine hline⟩, encodeLine_decodeText⟩
  obtain ⟨i, hi⟩ := validWord_iff_decodes.mp h
  obtain ⟨r, hr, -, hmatch⟩ := match_of_decodeWord hi
  exact ⟨r, hr, hmatch⟩

/-- Settles O54: the canonical text encodes, and the word of a line decodes to the instruction the line stands for. -/
theorem codecRoundTrip : Obligations.CodecRoundTrip := by
  refine ⟨fun _ => encodeLine_decodeText, fun line w h => ?_⟩
  obtain ⟨i, hi, rfl⟩ := encodeLine_ok.mp h
  have hwf := wf_of_assembleLine hi
  exact ⟨i, hi, hwf, rfl, decodeText_of_decodeWord (decodeWord_encode hwf)⟩

/-- Settles O4: a match fixes the opcode and the must-be-zero field, so the word decodes; what decodes is the word of its
instruction, which matches the row of its mnemonic. -/
theorem decoderFollowsOpcodeMap : Obligations.DecoderFollowsOpcodeMap := by
  refine ⟨rfl, fun w r hr => match_iff_decodes hr, fun w r hr q hq => row_eq_of_match hr hq, fun w hnone => ?_⟩
  refine Option.eq_none_iff_forall_ne_some.mpr fun i hi => ?_
  obtain ⟨r, hr, -, hmatch⟩ := match_of_decodeWord hi
  exact hnone r hr hmatch

/-- Settles O55: the encoder by cases; operands of the expected shapes build an instruction, and in their ranges a well-formed
one. -/
theorem encoderChecksInOrder : Obligations.EncoderChecksInOrder := by
  intro line
  refine ⟨findTemplate_eq_none, fun h => by simp [encodeLine, assembleLine, h], fun t ht => ?_⟩
  rw [encodeLine_of_findTemplate ht]
  refine ⟨fun hcount => by rw [assembleOperands, if_pos hcount]; rfl, fun hlen hempty =>
    ⟨fun hparse => by simp [assembleOperands, hlen, hempty, hparse, Except.map], fun os hparse => ?_⟩⟩
  obtain ⟨i, hbuild⟩ := build_of_admits (admits_of_parseOperands hparse)
  rw [assembleOperands_of_parse hempty hparse hbuild]
  refine ⟨fun hrange => by rw [hrange]; rfl, fun hrange => ?_⟩
  have hwf := wf_of_build (buildsWf_of_findTemplate ht) hbuild hrange
  exact ⟨i, hbuild, hwf, by rw [if_pos hrange]; rfl, validWord_iff_decodes.mpr ⟨i, decodeWord_encode hwf⟩⟩

/-- Settles O58: by induction on the lines, with the number of the first line arbitrary. -/
theorem loaderAbortsOnTheFirstBadLine : Obligations.LoaderAbortsOnTheFirstBadLine :=
  ⟨fun _ _ => firstBadLine_of_loadFrom, fun _ _ h => ⟨words_of_loadFrom h, validWord_of_loadFrom h⟩⟩

/-- Settles O6: the fields of the encoded word are the operands. -/
theorem wordReadsItsSourceOperands : Obligations.WordReadsItsSourceOperands := fun _ r h => wordReads_encode h r

/-- Settles O19: the two runs make the same write, and a written register reads the written value. -/
theorem effectDependsOnSourceOperandsOnly : Obligations.EffectDependsOnSourceOperandsOnly := by
  intro i s y h
  obtain ⟨v, target, hs, hu⟩ | ⟨hwrite, ⟨addr, v, target, hs, hu⟩ | ⟨target, hs, hu⟩⟩ := exec_of_same_sources h
  · exact ⟨_, _, hs, hu, rfl, rfl, fun _ => readReg_writeReg_congr ..⟩
  · exact ⟨_, _, hs, hu, rfl, rfl, by simp [hwrite]⟩
  · exact ⟨_, _, hs, hu, rfl, rfl, by simp [hwrite]⟩

/-- Settles O5, by evaluation. -/
theorem writtenOutWordsDecode : Obligations.WrittenOutWordsDecode := by
  unfold Obligations.WrittenOutWordsDecode
  decide

end

section
/-! PROOFS. NOP and the register-register ALU instructions (40_nop_alu_register.md): the ALU in the integers, the rule of format R,
what an occupied latch gives in a tick; then the obligations of that family. -/

namespace Sys2Proof.Machine

/-! The ALU in the integers, reduced (00_scope.md R12, 40_nop_alu_register.md R142 to R151). -/

theorem mask32_natCast (n : Nat) : mask32 n = BitVec.ofNat 32 n := BitVec.ofInt_natCast ..

/-- The shift amount `b[4:0]` is `b mod 32` (R149). -/
theorem shiftAmount_eq (b : Word) : shiftAmount b = b.toNat % 32 := by
  simp [shiftAmount]

section
variable (a b pc : Word) (n : Nat)

theorem shiftLeft_eq_mask32 : a <<< n = mask32 (a.toNat * 2 ^ n) := by
  have hcast : (a.toNat * 2 ^ n : Int) = (a.toNat * 2 ^ n : Nat) := by simp
  rw [hcast, mask32_natCast, ← Nat.shiftLeft_eq]
  rfl

theorem ushiftRight_eq_mask32 : a >>> n = mask32 (a.toNat / 2 ^ n) := by
  have hcast : (a.toNat / 2 ^ n : Int) = (a.toNat / 2 ^ n : Nat) := by simp
  rw [hcast, mask32_natCast, ← Nat.shiftRight_eq_div_pow, ← BitVec.toNat_ushiftRight, BitVec.ofNat_toNat,
    BitVec.setWidth_eq]

theorem sshiftRight_eq_mask32 : a.sshiftRight n = mask32 (signed a / 2 ^ n) := by
  rw [BitVec.sshiftRight, Int.shiftRight_eq_div_pow]
  rfl

theorem alu_add : alu .ADD a b pc = mask32 (a.toNat + b.toNat) := by
  rw [← Nat.cast_add, mask32_natCast]
  exact BitVec.add_def ..

theorem alu_sub : alu .SUB a b pc = mask32 (a.toNat - b.toNat) := by
  simp [alu, mask32, Int.sub_eq_add_neg, BitVec.ofInt_add, BitVec.ofInt_neg, BitVec.sub_eq_add_neg]

theorem alu_slt : alu .SLT a b pc = if signed a < signed b then 1 else 0 := by
  simp [alu, boolWord, lessSigned]

theorem alu_sltu : alu .SLTU a b pc = if a.toNat < b.toNat then 1 else 0 := by
  simp [alu, boolWord, lessUnsigned]

theorem alu_sll : alu .SLL a b pc = mask32 (a.toNat * 2 ^ (b.toNat % 32)) := by
  rw [← shiftAmount_eq]
  exact shiftLeft_eq_mask32 ..

theorem alu_srl : alu .SRL a b pc = mask32 (a.toNat / 2 ^ (b.toNat % 32)) := by
  rw [← shiftAmount_eq]
  exact ushiftRight_eq_mask32 ..

theorem alu_sra : alu .SRA a b pc = mask32 (signed a / 2 ^ (b.toNat % 32)) := by
  rw [← shiftAmount_eq]
  exact sshiftRight_eq_mask32 ..

end

/-! Format R (R140). -/

/-- An instruction of format R follows its rule when its ALU operation computes the rule's function. -/
theorem registerRule_of_alu {mk : RegIx → RegIx → RegIx → Instr} {op : BitVec 6} {aluOp : AluOp} {f : Word → Word → Word}
    (hmk : ∀ rd rs rt, (mk rd rs rt).wf = true ∧ encode (mk rd rs rt) = encodeR op rd rs rt ∧
      controlOf (mk rd rs rt) = Control.register aluOp ∧ destReg (mk rd rs rt) = rd ∧
      ∀ s, exec (mk rd rs rt) s = .next (s.aluRegister aluOp rd rs rt))
    (halu : ∀ a b pc, alu aluOp a b pc = f a b) : RegisterRule mk op aluOp f := by
  intro rd rs rt s
  obtain ⟨hwf, hword, hcontrol, hdest, hexec⟩ := hmk rd rs rt
  refine ⟨hword, ?_, hcontrol, hdest, ?_⟩
  · exact (congrArg decodeWord hword.symm).trans (decodeWord_encode hwf)
  · rw [← halu _ _ s.pc]
    exact runsToRegister_of_exec (hexec s)

/-! Words of opcode 0 (R141). -/

theorem decodeWord_eq_nop {w : Word} : decodeWord w = some .nop ↔ w = 0 := by
  constructor
  · intro h
    exact (encode_of_decodeWord h).2.symm
  · rintro rfl
    rfl

theorem decodeWord_of_opcode_zero {w : Word} (hop : opcodeOf w = 0) (hw : w ≠ 0) : decodeWord w = none := by
  rw [decodeWord, hop]
  exact if_neg hw

/-! The wires of a tick without flush (45_forwarding_hazard.md R266, R268). -/

/-- An instruction that reads no register never waits for a load (R266). -/
theorem loadUse_of_reads_nothing {f : IfId} (h : ∀ r, wordReads f.instr r = false) (idEx : Latch IdEx) :
    loadUse idEx (.occupied f) = false := by
  cases idEx <;> simp [loadUse, h]

theorem wordReads_nop (r : RegIx) : wordReads 0 r = false := rfl

section
variable {s t : State}

theorem redirect_of_flush_false (h : (wires s).flush = false) : (wires s).redirect = none := by
  simpa [wires_flush] using h

/-- NOP in ID never stalls (R141). -/
theorem stall_of_nop {f : IfId} (hf : s.ifId = .occupied f) (hnop : f.instr = 0) (hflush : (wires s).flush = false) :
    (wires s).stall = false := by
  rw [wires_stall (redirect_of_flush_false hflush), hf]
  exact loadUse_of_reads_nothing (fun r => hnop ▸ wordReads_nop r) s.idEx

/-! The latch that an instruction reaches in a tick (R211, R216, R220, R221) and the record of its stage (R294). -/

theorem ifId_of_fetch {w : Word} (h : tick s = .next t) (hflush : (wires s).flush = false) (hstall : (wires s).stall = false)
    (hw : s.fetch = some w) : t.ifId = .occupied { pc := s.pc, instr := w } := by
  obtain ⟨candidate, -, rfl⟩ := tick_next h
  rw [tickNext_ifId, redirect_of_flush_false hflush, hstall, hw]
  rfl

theorem idEx_of_ifId {f : IfId} {i : Instr} (h : tick s = .next t) (hf : s.ifId = .occupied f) (hi : decodeWord f.instr = some i)
    (hflush : (wires s).flush = false) (hstall : (wires s).stall = false) : t.idEx = .occupied (idCandidate f i t.x) := by
  have hid : idStage s.ifId (wbStage s.x s.memWb) = .ok (.occupied (idCandidate f i (wbStage s.x s.memWb))) :=
    hf ▸ idStage_of_decodes hi
  cases (tick_of_candidate hid).symm.trans h
  rw [tickNext_idEx, tickNext_x, idExNext, hflush, hstall]
  rfl

theorem exMem_of_idEx {d : IdEx} (h : tick s = .next t) (hd : s.idEx = .occupied d) :
    ∃ a b, t.exMem = .occupied (exPublish d a b) := by
  obtain ⟨candidate, -, rfl⟩ := tick_next h
  rw [tickNext_exMem, hd]
  exact ⟨_, _, rfl⟩

theorem memWb_of_exMem {e : ExMem} (h : tick s = .next t) (he : s.exMem = .occupied e) :
    t.memWb = .occupied { pc := e.pc, instr := e.instr, dest := e.dest, regWrite := e.regWrite, result := memResult s.dmem e } := by
  obtain ⟨candidate, -, rfl⟩ := tick_next h
  rw [tickNext_memWb, he]
  rfl

theorem atIF_of_fetch {w : Word} (hflush : (wires s).flush = false) (hstall : (wires s).stall = false) (hw : s.fetch = some w) :
    (tickRecord s).atIF = activeRecord s.pc w true := by
  simp [tickRecord, recordIF, hflush, hstall, hw]

theorem atID_of_ifId {f : IfId} (hf : s.ifId = .occupied f) :
    (tickRecord s).atID = activeRecord f.pc f.instr (!((wires s).stall || (wires s).flush)) := by
  simp [tickRecord, recordID, hf]

theorem atEX_of_idEx {d : IdEx} (hd : s.idEx = .occupied d) : (tickRecord s).atEX = activeRecord d.pc d.instr true := by
  simp [tickRecord, recordEX, hd]

theorem atMEM_of_exMem {e : ExMem} (he : s.exMem = .occupied e) : (tickRecord s).atMEM = activeRecord e.pc e.instr true := by
  simp [tickRecord, recordMEM, he]

theorem atWB_of_memWb {e : MemWb} (he : s.memWb = .occupied e) : (tickRecord s).atWB = activeRecord e.pc e.instr true := by
  simp [tickRecord, recordWB, he]

end

/-- An instruction whose effect is one assignment of the pc: its frame (R14, R24). -/
theorem runsToPc_of_exec {i : Instr} {s : State} {target : Word} (h : exec i s = .next (s.setPc target)) : RunsToPc i s target :=
  ⟨_, h, rfl, fun _ => rfl, ⟨rfl, fun _ => rfl⟩, rfl, rfl, rfl, rfl, rfl, rfl, rfl⟩

theorem exec_nop (s : State) : exec .nop s = .next (s.setPc (s.pc + 1)) := rfl

end Sys2Proof.Machine

open Sys2Proof Sys2Proof.Machine

/-! The obligations of 40_nop_alu_register.md. -/

/-- Settles O10: the rule of format R, with what each ALU operation computes. -/
theorem registerAluInstructions : Obligations.RegisterAluInstructions := by
  refine ⟨registerRule_of_alu ?_ alu_add, registerRule_of_alu ?_ alu_sub, registerRule_of_alu ?_ fun _ _ _ => rfl,
    registerRule_of_alu ?_ fun _ _ _ => rfl, registerRule_of_alu ?_ fun _ _ _ => rfl, registerRule_of_alu ?_ alu_slt,
    registerRule_of_alu ?_ alu_sltu, registerRule_of_alu ?_ alu_sll, registerRule_of_alu ?_ alu_srl,
    registerRule_of_alu ?_ alu_sra⟩
  all_goals exact fun _ _ _ => ⟨rfl, rfl, rfl, rfl, fun _ => rfl⟩

/-- Settles O9: NOP reads nothing and its destination is register 0, so it neither stalls nor makes wait nor forwards; in each
stage, by what the stage does with any instruction. -/
theorem nopOnlyAdvances : Obligations.NopOnlyAdvances := by
  refine ⟨fun _ => decodeWord_eq_nop, rfl, fun _ => decodeWord_of_opcode_zero, rfl, rfl, fun s => runsToPc_of_exec (exec_nop s),
    fun l _ => loadUse_of_reads_nothing wordReads_nop l, fun _ _ l => loadUse_of_dest_zero rfl l, fun _ _ _ _ _ => rfl,
    fun _ _ _ _ _ _ => rfl, ?fetched, ?decoded, ?executed, ?memory, ?retired⟩
  case fetched =>
    intro s t h hflush hstall hw
    exact ⟨ifId_of_fetch h hflush hstall hw, by rw [atIF_of_fetch hflush hstall hw]; rfl⟩
  case decoded =>
    intro s t f h hf hnop hflush
    have hstall := stall_of_nop hf hnop hflush
    exact ⟨idEx_of_ifId h hf (decodeWord_eq_nop.mpr hnop) hflush hstall, by rw [atID_of_ifId hf, hflush, hstall]; rfl⟩
  case executed =>
    intro s t d h hd hnop
    obtain ⟨a, b, hex⟩ := exMem_of_idEx h hd
    exact ⟨⟨_, hex, rfl, hnop⟩, by rw [atEX_of_idEx hd]; rfl⟩
  case memory =>
    intro s t e h he hnop
    exact ⟨⟨_, memWb_of_exMem h he, rfl, hnop⟩, by rw [atMEM_of_exMem he]; rfl⟩
  case retired =>
    intro s e he _
    rw [atWB_of_memWb he]
    rfl

end

section
/-! PROOFS. The register-immediate ALU instructions and LUI (41_alu_immediate.md): extended immediates in the integers, the rule of
formats IS, IU and IH, LUI, the reserved words of formats IH and L; then the obligations of that family. -/

namespace Sys2Proof.Machine

section
variable (imm : Imm16)

/-! Extended immediates (00_scope.md R13, 30_encoding.md R93). -/

theorem zext32_toNat : (zext32 imm).toNat = imm.toNat := BitVec.toNat_setWidth_of_le (by decide)

theorem signed_sext32 : signed (sext32 imm) = imm.toInt := BitVec.toInt_signExtend_of_le (by decide)

theorem zext32_eq_mask32 : zext32 imm = mask32 imm.toNat := by
  rw [mask32_natCast, ← zext32_toNat, BitVec.ofNat_toNat, BitVec.setWidth_eq]

/-- A 16-bit field followed by 16 zeros is its zero extension shifted (R169). -/
theorem append_zeros_eq_shiftLeft : imm ++ (0 : BitVec 16) = zext32 imm <<< 16 := by
  have happend : imm ++ (0 : BitVec 16) = imm.shiftLeftZeroExtend 16 ||| 0#32 := rfl
  rw [happend, BitVec.or_zero, BitVec.shiftLeftZeroExtend_eq]
  rfl

theorem append_zeros_eq_mask32 : imm ++ (0 : BitVec 16) = mask32 (imm.toNat * 2 ^ 16) := by
  rw [append_zeros_eq_shiftLeft, shiftLeft_eq_mask32, zext32_toNat]

/-! The ALU on an immediate, in the integers (R161, R165 to R169). -/

variable {imm} (a pc : Word)

theorem alu_add_sext32 : alu .ADD a (sext32 imm) pc = mask32 (a.toNat + imm.toInt) := add_sext32 ..

theorem alu_slt_sext32 : alu .SLT a (sext32 imm) pc = if signed a < imm.toInt then 1 else 0 := by
  rw [alu_slt, signed_sext32]

/-- A shift amount below 32 is used as it stands. -/
theorem toNat_mask32_mod (h : imm.toNat < 32) : (mask32 imm.toNat).toNat % 32 = imm.toNat := by
  rw [← zext32_eq_mask32, zext32_toNat, Nat.mod_eq_of_lt h]

theorem alu_sll_shamt (h : imm.toNat < 32) : alu .SLL a (mask32 imm.toNat) pc = mask32 (a.toNat * 2 ^ imm.toNat) := by
  rw [alu_sll, toNat_mask32_mod h]

theorem alu_srl_shamt (h : imm.toNat < 32) : alu .SRL a (mask32 imm.toNat) pc = mask32 (a.toNat / 2 ^ imm.toNat) := by
  rw [alu_srl, toNat_mask32_mod h]

theorem alu_sra_shamt (h : imm.toNat < 32) : alu .SRA a (mask32 imm.toNat) pc = mask32 (signed a / 2 ^ imm.toNat) := by
  rw [alu_sra, toNat_mask32_mod h]

/-- The ALU ignores input A and shifts input B (R169). -/
theorem alu_lui_zext32 : alu .LUI a (zext32 imm) pc = imm ++ (0 : BitVec 16) := (append_zeros_eq_shiftLeft imm).symm

end

/-! Formats IS, IU and IH (R160). -/

/-- An instruction of these formats follows its rule when its ALU operation computes the rule's function on each immediate that
fits. -/
theorem immediateRule_of_alu {mk : RegIx → RegIx → Imm16 → Instr} {op : BitVec 6} {lo hi : Int} {fits : Imm16 → Prop}
    {aluOp : AluOp} {ext : Imm16 → Word} {f : Word → Imm16 → Word}
    {t : Template} (htemplate : findTemplate (mk 0 0 0).mnemonic.toList = some t)
    (hshapes : t.shapes = [.register, .register, .integer lo hi])
    (hwf : ∀ rt rs imm, fits imm → (mk rt rs imm).wf = true)
    (hmk : ∀ rt rs imm,
      (mk rt rs imm).mnemonic = (mk 0 0 0).mnemonic ∧ encode (mk rt rs imm) = encodeI op rs rt imm ∧
      controlOf (mk rt rs imm) = Control.immediate aluOp ∧ destReg (mk rt rs imm) = rt ∧
      ∀ s, exec (mk rt rs imm) s = .next (s.aluImmediate aluOp rt rs (immediateOf (mk rt rs imm))))
    (hext : ∀ rt rs imm, immediateOf (mk rt rs imm) = ext imm)
    (halu : ∀ a imm pc, fits imm → alu aluOp a (ext imm) pc = f a imm) : ImmediateRule mk op lo hi fits aluOp ext f := by
  intro rt rs imm s hfits
  obtain ⟨hname, hword, hcontrol, hdest, hexec⟩ := hmk rt rs imm
  refine ⟨by rw [hname, htemplate, Option.map_some, hshapes], hword, ?_, hcontrol, hdest, hext rt rs imm, ?_⟩
  · exact (congrArg decodeWord hword.symm).trans (decodeWord_encode (hwf rt rs imm hfits))
  · rw [← halu _ _ s.pc hfits, ← hext rt rs]
    exact runsToRegister_of_exec (hexec s)

/-! LUI (R169). -/

theorem exec_lui (rt : RegIx) (imm : Imm16) (s : State) :
    exec (.lui rt imm) s = .next (s.writeReg rt (alu .LUI 0 (zext32 imm) s.pc)).advance := rfl

theorem decodeWord_lui (rt : RegIx) (imm : Imm16) : decodeWord (encodeI 0x18 0 rt imm) = some (.lui rt imm) :=
  decodeWord_encode (i := .lui rt imm) rfl

theorem findTemplate_lui : findTemplate "LUI".toList = some (.l .lui) := rfl

theorem wordReads_lui (rt : RegIx) (imm : Imm16) (r : RegIx) : wordReads (encode (.lui rt imm)) r = false :=
  Bool.eq_false_iff.mpr fun h => List.not_mem_nil ((wordReads_encode rfl r).mp h)

/-- LUI in ID never stalls. -/
theorem loadUse_lui (rt : RegIx) (imm : Imm16) (idEx : Latch IdEx) (pc : Word) :
    loadUse idEx (.occupied { pc := pc, instr := encode (.lui rt imm) }) = false :=
  loadUse_of_reads_nothing (f := { pc := pc, instr := encode (.lui rt imm) }) (wordReads_lui rt imm) idEx

/-! Reserved words of formats IH and L (30_encoding.md R96, R97). -/

section
variable {w : Word}

theorem decodeIH_eq_none (h : 32 ≤ (immOf w).toNat) (mk : RegIx → RegIx → Imm16 → Instr) : decodeIH w mk = none := by
  refine if_neg fun hzero => ?_
  have hle := shamtInRange_iff.mp (shamtInRange_immOf hzero)
  omega

/-- A shift-immediate word with a non-zero bit in 15:5 is reserved (R166). -/
theorem decodeWord_of_shift_opcode (hop : opcodeOf w = 0x15 ∨ opcodeOf w = 0x16 ∨ opcodeOf w = 0x17)
    (h : 32 ≤ (immOf w).toNat) : decodeWord w = none := by
  obtain hop | hop | hop := hop <;> rw [decodeWord, hop] <;> exact decodeIH_eq_none h _

/-- A LUI word with non-zero bits 25:21 is reserved (R169). -/
theorem decodeWord_of_lui_opcode (hop : opcodeOf w = 0x18) (h : rsOf w ≠ 0) : decodeWord w = none := by
  rw [decodeWord, hop]
  exact if_neg h

/-- No line encodes to a reserved word (R96). -/
theorem encodeLine_ne_of_reserved (h : decodeWord w = none) (line : List Char) : encodeLine line ≠ .ok w := by
  intro hline
  obtain ⟨i, hi⟩ := validWord_iff_decodes.mp (validWord_of_encodeLine hline)
  cases h.symm.trans hi

end

end Sys2Proof.Machine

open Sys2Proof Sys2Proof.Machine

/-! The obligations of 41_alu_immediate.md. -/

/-- Settles O11: the rule of formats IS, IU and IH, with what each ALU operation computes on its extended immediate; a reserved
word is encoded by no line. -/
theorem immediateAluInstructions : Obligations.ImmediateAluInstructions := by
  have hsigned := fun _ _ : RegIx => sext32_eq_mask32
  have hunsigned := fun _ _ : RegIx => zext32_eq_mask32
  have hshamt : ∀ _ _ : RegIx, ∀ imm : Imm16, imm.toNat < 32 → shamtInRange imm = true := fun _ _ _ h =>
    shamtInRange_iff.mpr (Nat.le_of_lt_succ h)
  refine ⟨immediateRule_of_alu rfl rfl (fun _ _ _ _ => rfl) ?_ hsigned fun a _ pc _ => alu_add_sext32 a pc,
    immediateRule_of_alu rfl rfl (fun _ _ _ _ => rfl) ?_ hunsigned fun _ _ _ _ => rfl,
    immediateRule_of_alu rfl rfl (fun _ _ _ _ => rfl) ?_ hunsigned fun _ _ _ _ => rfl,
    immediateRule_of_alu rfl rfl (fun _ _ _ _ => rfl) ?_ hunsigned fun _ _ _ _ => rfl,
    immediateRule_of_alu rfl rfl (fun _ _ _ _ => rfl) ?_ hsigned fun a _ pc _ => alu_slt_sext32 a pc,
    immediateRule_of_alu rfl rfl hshamt ?_ hunsigned fun a _ pc => alu_sll_shamt a pc,
    immediateRule_of_alu rfl rfl hshamt ?_ hunsigned fun a _ pc => alu_srl_shamt a pc,
    immediateRule_of_alu rfl rfl hshamt ?_ hunsigned fun a _ pc => alu_sra_shamt a pc, ?reserved⟩
  case reserved =>
    intro w hop hshamt
    have hnone := decodeWord_of_shift_opcode hop hshamt
    exact ⟨hnone, encodeLine_ne_of_reserved hnone⟩
  all_goals exact fun _ _ _ => ⟨rfl, rfl, rfl, rfl, fun _ => rfl⟩

/-- Settles O12: LUI is one register write of the ALU's result, and its word reads no register. -/
theorem loadUpperImmediate : Obligations.LoadUpperImmediate := by
  refine ⟨fun rt imm s => ⟨rfl, decodeWord_lui rt imm, rfl, rfl, ?_, append_zeros_eq_mask32 imm, zext32_eq_mask32 imm, ?_,
    congrArg (Option.map Template.shapes) findTemplate_lui, loadUse_lui rt imm⟩, fun _ => decodeWord_of_lui_opcode⟩
  · rw [← alu_lui_zext32 0 s.pc]
    exact runsToRegister_of_exec (exec_lui rt imm s)
  · rw [← zext32_eq_mask32]
    exact alu_lui_zext32

end

section
/-! PROOFS. Branches and jumps (43_control_transfer.md): the conditions and targets in the integers, the rule of format B, what J, JAL
and JR do; then the obligations of that family. -/

namespace Sys2Proof.Machine

/-! The conditions of the branches on exact values (R191 to R194). -/

section
variable {a b : Word}

theorem transferTaken_beq : transferTaken .BEQ a b = true ↔ a = b := beq_iff_eq

theorem transferTaken_bne : transferTaken .BNE a b = true ↔ a ≠ b := bne_iff_ne

theorem transferTaken_blt : transferTaken .BLT a b = true ↔ signed a < signed b := decide_eq_true_iff

theorem transferTaken_bge : transferTaken .BGE a b = true ↔ signed a ≥ signed b := by
  simp [transferTaken, lessSigned]

end

/-! The conditional branches (R190, R191). -/

section
variable {s : State} {ctl : CtlKind} {rs rt : RegIx}

/-- A taken branch assigns its target to the pc. -/
theorem branch_of_taken (h : transferTaken ctl (s.readReg rs) (s.readReg rt) = true) (imm : Imm16) :
    s.branch ctl rs rt imm = s.setPc (branchTarget s.pc imm) := if_pos h

/-- A branch that is not taken assigns the next index to the pc. -/
theorem branch_of_not_taken (h : ¬transferTaken ctl (s.readReg rs) (s.readReg rt) = true) (imm : Imm16) :
    s.branch ctl rs rt imm = s.setPc (s.pc + 1) := if_neg h

end

/-- The target is computed in the integers from the index of the branch itself, and reduced (R190 b). -/
theorem branchTarget_eq_mask32 (pc : Word) (imm : Imm16) : branchTarget pc imm = mask32 (pc.toNat + imm.toInt) := add_sext32 ..

/-- An instruction of format B follows its rule when its transfer is taken exactly under the rule's condition. -/
theorem branchRule_of_transferTaken {mk : RegIx → RegIx → Imm16 → Instr} {op : BitVec 6} {ctl : CtlKind}
    {cond : Word → Word → Prop}
    (hmk : ∀ rs rt imm, (mk rs rt imm).wf = true ∧ encode (mk rs rt imm) = encodeI op rs rt imm ∧
      controlOf (mk rs rt imm) = Control.branch ctl ∧ destReg (mk rs rt imm) = 0 ∧
      ∀ s, exec (mk rs rt imm) s = .next (s.branch ctl rs rt imm))
    (htaken : ∀ {a b}, transferTaken ctl a b = true ↔ cond a b) : BranchRule mk op ctl cond := by
  intro rs rt imm s
  obtain ⟨hwf, hword, hcontrol, hdest, hexec⟩ := hmk rs rt imm
  refine ⟨hword, ?_, hcontrol, hdest, fun hcond => ?_, fun hcond => ?_⟩
  · exact (congrArg decodeWord hword.symm).trans (decodeWord_encode hwf)
  · rw [← branchTarget_eq_mask32]
    exact runsToPc_of_exec (branch_of_taken (htaken.mpr hcond) imm ▸ hexec s)
  · exact runsToPc_of_exec (branch_of_not_taken (fun h => hcond (htaken.mp h)) imm ▸ hexec s)

/-! The jumps (R195 to R197). -/

section
variable (target : Target26) (rs : RegIx) (s : State)

theorem decodeWord_j : decodeWord (encodeJ 0x38 target) = some (.j target) := decodeWord_encode (i := .j target) rfl

theorem decodeWord_jal : decodeWord (encodeJ 0x39 target) = some (.jal target) := decodeWord_encode (i := .jal target) rfl

theorem decodeWord_jr : decodeWord (encodeJR 0x3A rs) = some (.jr rs) := decodeWord_encode (i := .jr rs) rfl

/-- The target is the field's unsigned value (R93, R195). -/
theorem jumpTarget_eq_mask32 : jumpTarget target = mask32 target.toNat := by
  rw [mask32_natCast, BitVec.ofNat_toNat]
  rfl

theorem exec_j : exec (.j target) s = .next (s.setPc (jumpTarget target)) := rfl

theorem exec_jal : exec (.jal target) s = .next ((s.writeReg 31 (s.pc + 1)).setPc (jumpTarget target)) := rfl

theorem exec_jr : exec (.jr rs) s = .next (s.setPc (s.readReg rs)) := rfl

/-- JAL is one write of register 31 and one assignment of the pc: its frame (R196). -/
theorem runsToLinkAndPc_jal : RunsToLinkAndPc (.jal target) s (jumpTarget target) :=
  ⟨_, exec_jal target s, fun q => readReg_writeReg s 31 q (s.pc + 1), rfl, ⟨rfl, fun _ => rfl⟩, rfl, rfl, rfl, rfl, rfl, rfl, rfl⟩

end

end Sys2Proof.Machine

open Sys2Proof Sys2Proof.Machine

/-! The obligations of 43_control_transfer.md. -/

/-- Settles O15: the rule of format B, with the condition under which each transfer is taken. -/
theorem conditionalBranches : Obligations.ConditionalBranches := by
  refine ⟨branchRule_of_transferTaken ?_ transferTaken_beq, branchRule_of_transferTaken ?_ transferTaken_bne,
    branchRule_of_transferTaken ?_ transferTaken_blt, branchRule_of_transferTaken ?_ transferTaken_bge⟩
  all_goals exact fun _ _ _ => ⟨rfl, rfl, rfl, rfl, fun _ => rfl⟩

/-- Settles O16: each jump is one assignment of the pc, JAL after one write of register 31. -/
theorem jumps : Obligations.Jumps := by
  refine ⟨fun target s => ?j, fun target s => ?jal, fun rs s => ?jr⟩
  case j =>
    rw [← jumpTarget_eq_mask32]
    exact ⟨rfl, decodeWord_j target, rfl, rfl, rfl, runsToPc_of_exec (exec_j target s)⟩
  case jal =>
    rw [← jumpTarget_eq_mask32]
    exact ⟨rfl, decodeWord_jal target, rfl, rfl, rfl, runsToLinkAndPc_jal target s⟩
  case jr =>
    exact ⟨rfl, decodeWord_jr rs, rfl, rfl, runsToPc_of_exec (exec_jr rs s)⟩

end

section
/-! PROOFS. The pipeline stages (44_pipeline_stages.md): what a tick puts into each part of the state, the wires EX gives, the
stages on an empty input; then the obligations of that family. -/

namespace Sys2Proof.Machine

/-! Word arithmetic in the integers, reduced (00_scope.md R12). -/

theorem add_eq_mask32 (a b : Word) : a + b = mask32 (a.toNat + b.toNat) := alu_add a b 0

theorem nextIndex_eq_mask32 (pc : Word) : nextIndex pc = mask32 (pc.toNat + 1) := add_eq_mask32 pc 1

/-! The parts of the state after a tick, each the work of one stage (R211, R220, R221, R222). -/

section
variable {s t : State}

theorem x_of_tick (h : tick s = .next t) : t.x = wbStage s.x s.memWb := by
  obtain ⟨candidate, -, rfl⟩ := tick_next h
  rfl

theorem dmem_of_tick (h : tick s = .next t) : t.dmem = memStageMemory s.dmem s.exMem := by
  obtain ⟨candidate, -, rfl⟩ := tick_next h
  rfl

theorem memWb_of_tick (h : tick s = .next t) : t.memWb = memStageLatch s.dmem s.exMem := by
  obtain ⟨candidate, -, rfl⟩ := tick_next h
  rfl

theorem exMem_of_tick (h : tick s = .next t) : t.exMem = exStageLatch (wires s).fwdA (wires s).fwdB s.idEx s.exMem s.memWb := by
  obtain ⟨candidate, -, rfl⟩ := tick_next h
  rfl

theorem ifStage_of_tick (h : tick s = .next t) :
    (t.ifId, t.pc) = ifStage (wires s).redirect (wires s).stall s.ifId s.pc s.fetch := by
  obtain ⟨candidate, -, rfl⟩ := tick_next h
  rfl

/-! IF (R211). -/

theorem fetch_of_lt (h : s.pc.toNat < s.imemLen) : ∃ w, s.fetch = some w := ⟨_, List.getElem?_eq_getElem h⟩

theorem fetch_of_le (h : s.imemLen ≤ s.pc.toNat) : s.fetch = none := List.getElem?_eq_none h

/-- Past the end nothing is fetched, whether IF is redirected or not. -/
theorem ifId_of_fetch_none (h : tick s = .next t) (hfetch : s.fetch = none) (hstall : (wires s).stall = false) :
    t.ifId = .empty := by
  have hif := ifStage_of_tick h
  rw [hfetch, hstall] at hif
  cases hredirect : (wires s).redirect <;> rw [hredirect] at hif <;> exact (Prod.mk.inj hif).1

/-! ID (R215, R216, R323). -/

/-- In a tick that answers a next state the word in IF/ID is an instruction. -/
theorem decodes_of_tick {f : IfId} (h : tick s = .next t) (hf : s.ifId = .occupied f) : ∃ i, decodeWord f.instr = some i := by
  obtain ⟨candidate, hid, -⟩ := tick_next h
  obtain ⟨hempty, -⟩ | ⟨f', i, hf', hi, -⟩ := idStage_ok hid
  · cases hf.symm.trans hempty
  · cases hf.symm.trans hf'
    exact ⟨i, hi⟩

theorem idEx_of_ifId_empty (h : tick s = .next t) (hf : s.ifId = .empty) : t.idEx = .empty := by
  obtain ⟨candidate, hid, rfl⟩ := tick_next h
  rw [hf] at hid
  cases hid
  exact ite_self _

/-! EX (R217, R219, R220). -/

theorem exMem_of_idEx_empty (h : tick s = .next t) (hd : s.idEx = .empty) : t.exMem = .empty := by
  rw [exMem_of_tick h, hd]
  rfl

theorem publishesFrom_of_idEx {d : IdEx} (h : tick s = .next t) (hd : s.idEx = .occupied d) : PublishesFrom s t d := by
  rw [PublishesFrom, exMem_of_tick h, hd]
  rfl

/-- The redirect is that of the forwarded operands. -/
theorem redirect_of_idEx {d : IdEx} (hd : s.idEx = .occupied d) :
    (wires s).redirect =
      exRedirect d (operandMux (wires s).fwdA d.a s.exMem s.memWb) (operandMux (wires s).fwdB d.b s.exMem s.memWb) := by
  simp [wires, exStageRedirect, hd]

/-! MEM (R221). -/

theorem memWb_of_exMem_empty (h : tick s = .next t) (he : s.exMem = .empty) : t.memWb = .empty := by
  rw [memWb_of_tick h, he]
  rfl

theorem dmem_of_exMem_empty (h : tick s = .next t) (he : s.exMem = .empty) : t.dmem = s.dmem := by
  rw [dmem_of_tick h, he]
  rfl

/-- MEM of an instruction writes its one address, or nothing. -/
theorem dmem_of_exMem {e : ExMem} (h : tick s = .next t) (he : s.exMem = .occupied e) :
    t.dmem = if e.memWrite then s.dmem.write e.aluResult e.storeData else s.dmem := by
  rw [dmem_of_tick h, he]
  rfl

/-! WB (R222). -/

theorem keepsRegisters_of_memWb_empty (h : tick s = .next t) (hm : s.memWb = .empty) : KeepsRegisters s t := by
  intro r
  rw [State.readReg, x_of_tick h, hm]
  rfl

/-- WB of an instruction writes its destination, when that is not register 0 and its control row has `reg_write`. -/
theorem readReg_of_memWb {e : MemWb} (h : tick s = .next t) (hm : s.memWb = .occupied e) (r : RegIx) :
    t.readReg r = if e.regWrite = true ∧ r = e.dest ∧ e.dest ≠ 0 then e.result else s.readReg r := by
  rw [State.readReg, x_of_tick h, wbStage_read, hm]
  rfl

end

/-! The transfer of an instruction in EX by its kind (R219). -/

section
variable {d : IdEx} {a b : Word}

/-- The target of a conditional branch is the sum of its index and its immediate, computed in the integers and reduced. -/
theorem exTarget_of_branch (h : d.sig.ctl = .BEQ ∨ d.sig.ctl = .BNE ∨ d.sig.ctl = .BLT ∨ d.sig.ctl = .BGE) :
    exTarget d a = mask32 (d.pc.toNat + d.imm.toNat) := by
  rw [← add_eq_mask32]
  obtain h | h | h | h := h <;> rw [exTarget, h]

/-- A conditional branch redirects to its target exactly under the condition under which it is taken. -/
theorem exRedirect_of_branch {ctl : CtlKind} {cond : Prop} [Decidable cond] (hctl : d.sig.ctl = ctl)
    (hbranch : ctl = .BEQ ∨ ctl = .BNE ∨ ctl = .BLT ∨ ctl = .BGE) (htaken : transferTaken ctl a b = true ↔ cond) :
    exRedirect d a b = if cond then some (mask32 (d.pc.toNat + d.imm.toNat)) else none := by
  subst hctl
  rw [exRedirect, exTarget_of_branch hbranch]
  exact if_congr htaken rfl rfl

end

/-! One cell of data memory (R61, R62). -/

/-- A write sets the cell its address names and no other, in a canonical memory. -/
theorem Memory.readCell_write {m : Memory} (hm : m.wf) (a v : Word) (k : Nat) :
    (m.write a v).readCell k = if k = m.cellOf a then v else m.readCell k := cellRead_cellWrite hm.1

/-- No control row has both memory signals: STORE alone writes, and STORE does not load (R213). -/
theorem not_memRead_and_memWrite (i : Instr) : ¬((controlOf i).memRead = true ∧ (controlOf i).memWrite = true) := by
  rintro ⟨hread, hwrite⟩
  obtain ⟨rt, rs, imm, rfl⟩ := (memWrite_iff_store i).mp hwrite
  cases hread

end Sys2Proof.Machine

open Sys2Proof Sys2Proof.Machine

/-! The obligations of 44_pipeline_stages.md. -/

/-- Settles O28: IF under each of the wires, with a word below `IMEM_LEN` and none past it. -/
theorem fetchUnitHasFourCases : Obligations.FetchUnitHasFourCases := by
  intro s t h
  have hif := ifStage_of_tick h
  refine ⟨fun target hredirect => ?flush, fun hredirect hstall => ?stall, fun hredirect hstall hlt => ?fetch,
    fun hredirect hstall hle => ?pastEnd⟩ <;> rw [hredirect] at hif
  case flush => exact Prod.mk.inj hif
  case stall =>
    rw [hstall] at hif
    exact Prod.mk.inj hif
  case fetch =>
    obtain ⟨w, hw⟩ := fetch_of_lt hlt
    rw [hstall, hw] at hif
    rw [← nextIndex_eq_mask32]
    exact ⟨w, hw, Prod.mk.inj hif⟩
  case pastEnd =>
    rw [hstall, fetch_of_le hle] at hif
    exact Prod.mk.inj hif

/-- Settles O29: both ports read the register file of the tick's end, which is that of WB. -/
theorem registerReadSeesSameTickWriteBack : Obligations.RegisterReadSeesSameTickWriteBack := by
  intro s t f h hf hflush hstall xAfterWb
  have hread : ∀ r, RegFile.read t.x r = xAfterWb r := by
    intro r
    simp only [xAfterWb]
    cases hm : s.memWb with
    | empty => exact keepsRegisters_of_memWb_empty h hm r
    | occupied e =>
      have hdest : r = e.dest ∧ e.dest ≠ 0 ↔ e.dest = r ∧ r ≠ 0 := by
        constructor <;> rintro ⟨rfl, hne⟩ <;> exact ⟨rfl, hne⟩
      exact (readReg_of_memWb h hm r).trans (if_congr (and_congr_right fun _ => hdest) rfl rfl)
  have hzero : ∀ r : RegIx, r = 0 → RegFile.read t.x r = 0 := by
    rintro r rfl
    exact RegFile.read_zero t.x
  obtain ⟨i, hi⟩ := decodes_of_tick h hf
  exact ⟨_, idEx_of_ifId h hf hi hflush hstall, rfl, rfl, hread _, hread _, hzero _, hzero _⟩

/-- Settles O30: each operation in the integers. -/
theorem aluTable : Obligations.AluTable := fun a b pc =>
  ⟨alu_add a b pc, alu_sub a b pc, rfl, rfl, rfl, alu_slt a b pc, alu_sltu a b pc, alu_sll a b pc, alu_srl a b pc, alu_sra a b pc,
    shiftLeft_eq_mask32 b 16, nextIndex_eq_mask32 pc, rfl⟩

/-- Settles O31: each kind by its condition and its target. -/
theorem transferResolution : Obligations.TransferResolution := by
  intro d a b
  refine ⟨fun hctl => ?none, fun hctl => exRedirect_of_branch hctl (by decide) transferTaken_beq,
    fun hctl => exRedirect_of_branch hctl (by decide) transferTaken_bne,
    fun hctl => exRedirect_of_branch hctl (by decide) transferTaken_blt,
    fun hctl => exRedirect_of_branch hctl (by decide) transferTaken_bge,
    fun hctl => ?j, fun hctl => ?jr, fun s hs => (wires_of_idEx_empty s hs).1, fun s => redirect_of_idEx⟩
  case none => simp [exRedirect, transferTaken, hctl]
  case j => simp [exRedirect, transferTaken, exTarget, hctl]
  case jr => simp [exRedirect, transferTaken, exTarget, hctl]

/-- Settles O32: what a tick puts into EX/MEM, the register file and data memory. -/
theorem executeStagePublishes : Obligations.ExecuteStagePublishes := fun _ _ h =>
  ⟨exMem_of_idEx_empty h, fun _ => publishesFrom_of_idEx h, x_of_tick h, dmem_of_tick h⟩

/-- Settles O33: MEM/WB takes the result of MEM; data memory takes one write or none, and a write sets one cell. -/
theorem memoryStageAccess : Obligations.MemoryStageAccess := by
  intro s t h hwf
  refine ⟨fun he => ⟨memWb_of_exMem_empty h he, dmem_of_exMem_empty h he⟩, fun e he => ?_⟩
  have hmem := dmem_of_exMem h he
  refine ⟨memWb_of_exMem h he, fun k => ?cells, fun hwrite => ?kept, not_memRead_and_memWrite⟩
  case cells =>
    cases hwrite : e.memWrite <;> rw [hmem, hwrite]
    · simp
    · exact (Memory.readCell_write hwf e.aluResult e.storeData k).trans (if_congr (and_iff_right rfl).symm rfl rfl)
  case kept =>
    rw [hmem, hwrite]
    rfl

/-- Settles O34: what a register reads as after WB. -/
theorem writeBackArbiter : Obligations.WriteBackArbiter := by
  intro s t h
  refine ⟨keepsRegisters_of_memWb_empty h, fun e hm => ⟨fun hwrite r => ?_, fun hwrite r => ?_⟩⟩
  · simpa [hwrite] using readReg_of_memWb h hm r
  · simpa [hwrite] using readReg_of_memWb h hm r

/-- Settles O35: each stage on an empty input, and its record. -/
theorem emptyInputsDoNothing : Obligations.EmptyInputsDoNothing := by
  intro s t h
  refine ⟨fun hm => ⟨keepsRegisters_of_memWb_empty h hm, ?wb⟩,
    fun he => ⟨memWb_of_exMem_empty h he, dmem_of_exMem_empty h he, ?mem⟩,
    fun hd => ⟨exMem_of_idEx_empty h hd, (wires_of_idEx_empty s hd).1, ?ex⟩,
    fun hf => ⟨idEx_of_ifId_empty h hf, ?id⟩,
    fun hle hstall => ⟨ifId_of_fetch_none h (fetch_of_le hle) hstall, ?fetch⟩⟩
  case wb => simp [tickRecord, recordWB, hm]
  case mem => simp [tickRecord, recordMEM, he]
  case ex => simp [tickRecord, recordEX, hd]
  case id => simp [tickRecord, recordID, hf]
  case fetch => simp [tickRecord, recordIF, fetch_of_le hle]

end

section
/-! PROOFS. Forwarding and hazards (45_forwarding_hazard.md): what the forwarding unit selects and what the selected value is, when a
load waits, what a stall and a flush leave in the state; then the obligations of that family. -/

namespace Sys2Proof.Machine

/-! The forwarding unit (R261 to R263). -/

section
variable {exMem : Latch ExMem} {memWb : Latch MemWb} {r : RegIx}

/-- EX/MEM is selected exactly for a used operand, not register 0, that it writes. -/
theorem forwardSelect_eq_exmem {reads : Bool} :
    forwardSelect exMem memWb r reads = .EXMEM ↔ reads = true ∧ r ≠ 0 ∧ exMemWrites exMem r = true := by
  refine ⟨fun h => ?_, fun ⟨hreads, hr, he⟩ => ?_⟩
  · obtain ⟨hreg, -⟩ | ⟨-, hcase⟩ | ⟨hmemWb, -⟩ := forwardSelect_cases exMem memWb r reads
    · cases hreg.symm.trans h
    · exact hcase
    · cases hmemWb.symm.trans h
  · simpa [forwardSelect, Config.zeroReg, hreads, he] using hr

/-- MEM/WB is selected for a used operand, not register 0, that it writes and EX/MEM does not. -/
theorem forwardSelect_of_memWbWrites (hr : r ≠ 0) (he : exMemWrites exMem r = false) (hm : memWbWrites memWb r = true) :
    forwardSelect exMem memWb r true = .MEMWB := by
  simpa [forwardSelect, Config.zeroReg, he, hm] using hr

theorem exMemWrites_iff : exMemWrites exMem r = true ↔ ∃ e, exMem = .occupied e ∧ e.regWrite = true ∧ e.dest = r := by
  cases exMem <;> simp [exMemWrites]

theorem memWbWrites_iff : memWbWrites memWb r = true ↔ ∃ m, memWb = .occupied m ∧ m.regWrite = true ∧ m.dest = r := by
  cases memWb <;> simp [memWbWrites]

/-- MEM hands on the write of its instruction. -/
theorem memWbWrites_memStageLatch (m : Memory) : memWbWrites (memStageLatch m exMem) r = exMemWrites exMem r := by
  cases exMem <;> rfl

/-! A register after WB (R222). -/

theorem read_wbStage_of_writes {x : RegFile} {m : MemWb} (hwrite : m.regWrite = true) (hdest : m.dest = r) (hr : r ≠ 0) :
    RegFile.read (wbStage x (.occupied m)) r = m.result := by
  subst hdest
  exact (wbStage_read x (.occupied m) m.dest).trans (if_pos ⟨hwrite, rfl, hr⟩)

theorem read_wbStage_of_not_writes {x : RegFile} (h : memWbWrites memWb r = false) :
    RegFile.read (wbStage x memWb) r = RegFile.read x r := by
  cases memWb with
  | empty => rfl
  | occupied m =>
    refine (wbStage_read x (.occupied m) r).trans (if_neg fun ⟨hwrite, hdest, _⟩ => ?_)
    cases h.symm.trans (memWbWrites_iff.mpr ⟨m, rfl, hwrite, hdest.symm⟩)

end

/-! The value of an operand in EX (R264, R271). -/

section
variable {s : State} {d : IdEx} {r : RegIx}

/-- No load of register `r` is in EX/MEM, so the value of `r` there is the ALU result. -/
def State.NoLoadInMem (s : State) (r : RegIx) : Prop := ∀ e, s.exMem = .occupied e → e.dest = r → r ≠ 0 → e.memRead = false

/-- No load in EX/MEM has an operand of the instruction in ID/EX as its destination (R38 c). -/
theorem State.LoadUseInv.operands_noLoadInMem (h : s.LoadUseInv) (hd : s.idEx = .occupied d) :
    (d.sig.readsRs = true → s.NoLoadInMem d.rs) ∧ (d.sig.readsRt = true → s.NoLoadInMem d.rt) := by
  refine ⟨fun hreads e he hdest hr => ?_, fun hreads e he hdest hr => ?_⟩ <;> refine Bool.eq_false_iff.mpr fun hload => ?_ <;>
    obtain ⟨hrs, hrt⟩ := loadUseInv_iff.mp h e d he hd hload (hdest ▸ hr)
  · exact hrs ⟨hreads, hdest.symm⟩
  · exact hrt ⟨hreads, hdest.symm⟩

/-- The forwarded value is what the register holds once MEM/WB and then EX/MEM have written back: the selection follows the last of
these that writes the register. -/
theorem forwarded_eq_drained (h : s.NoLoadInMem r) :
    operandMux (forwardSelect s.exMem s.memWb r true) (RegFile.read s.x r) s.exMem s.memWb = RegFile.read s.drainedRegs r := by
  have hmem : memWbWrites (memStageLatch s.dmem s.exMem) r = exMemWrites s.exMem r := memWbWrites_memStageLatch s.dmem
  obtain ⟨hsel, hcase⟩ | ⟨hsel, -, hr, he⟩ | ⟨hsel, -, hr, he, hm⟩ := forwardSelect_cases s.exMem s.memWb r true <;> rw [hsel]
  · obtain hreads | rfl | ⟨he, hm⟩ := hcase
    · cases hreads
    · rfl
    · rw [State.drainedRegs, read_wbStage_of_not_writes (hmem.trans he), read_wbStage_of_not_writes hm]
      rfl
  · obtain ⟨e, hoccupied, hwrite, hdest⟩ := exMemWrites_iff.mp he
    have hload := h e hoccupied hdest hr
    rw [State.drainedRegs, hoccupied]
    refine Eq.trans ?_ (read_wbStage_of_writes hwrite hdest hr).symm
    simp [operandMux, memResult, hload]
  · rw [State.drainedRegs, read_wbStage_of_not_writes (hmem.trans he)]
    obtain ⟨m, hoccupied, hwrite, hdest⟩ := memWbWrites_iff.mp hm
    rw [hoccupied, read_wbStage_of_writes hwrite hdest hr]
    cases s.exMem <;> rfl

/-- What is selected from EX/MEM is no load. -/
theorem not_load_of_forwardSelect {reads : Bool} (h : reads = true → s.NoLoadInMem r)
    (hsel : forwardSelect s.exMem s.memWb r reads = .EXMEM) : ∃ e, s.exMem = .occupied e ∧ e.memRead = false := by
  obtain ⟨hreads, hr, hwrites⟩ := forwardSelect_eq_exmem.mp hsel
  obtain ⟨e, he, -, hdest⟩ := exMemWrites_iff.mp hwrites
  exact ⟨e, he, h hreads e he hdest hr⟩

theorem fwdA_of_idEx (hd : s.idEx = .occupied d) : (wires s).fwdA = forwardSelect s.exMem s.memWb d.rs d.sig.readsRs := by
  simp [wires, forwardA, hd]

theorem fwdB_of_idEx (hd : s.idEx = .occupied d) : (wires s).fwdB = forwardSelect s.exMem s.memWb d.rt d.sig.readsRt := by
  simp [wires, forwardB, hd]

/-- The operands in ID/EX are those of the register file. -/
theorem State.IdExInv.operands (h : s.IdExInv) (hd : s.idEx = .occupied d) :
    d.a = RegFile.read s.x d.rs ∧ d.b = RegFile.read s.x d.rt := by
  obtain ⟨-, ⟨i, -, hdecoded⟩, -⟩ := idExInv_iff.mp h d hd
  rw [hdecoded]
  exact ⟨rfl, rfl⟩

end

/-! Load-use (R266, R270). -/

/-- Every instruction that reads data memory has the control row of LOAD (R213). -/
theorem controlOf_of_memRead {i : Instr} (h : (controlOf i).memRead = true) : controlOf i = controlOf (.load 0 0 0) := by
  cases i with
  | load rt rs imm => rfl
  | _ => cases h

theorem wordReads_iff {w : Word} {r : RegIx} :
    wordReads w r = true ↔ ∃ i, decodeWord w = some i ∧
      (((controlOf i).readsRs = true ∧ rsOf w = r) ∨ ((controlOf i).readsRt = true ∧ rtOf w = r)) := by
  cases hi : decodeWord w <;> simp [wordReads, hi]

theorem loadUse_iff {idEx : Latch IdEx} {ifId : Latch IfId} :
    loadUse idEx ifId = true ↔ ∃ d f, idEx = .occupied d ∧ ifId = .occupied f ∧
      d.sig.memRead = true ∧ d.dest ≠ 0 ∧ wordReads f.instr d.dest = true := by
  cases idEx <;> cases ifId <;> simp [loadUse, Config.zeroReg, and_assoc]

section
variable {s t : State} {d : IdEx}

theorem stall_iff : (wires s).stall = true ↔ (wires s).flush = false ∧ loadUse s.idEx s.ifId = true := by
  show (!(wires s).flush && _) = true ↔ _
  simp

theorem State.IdExInv.sig_of_load (h : s.IdExInv) (hd : s.idEx = .occupied d) (hload : d.sig.memRead = true) :
    d.sig = controlOf (.load 0 0 0) := by
  obtain ⟨-, ⟨i, -, hdecoded⟩, -⟩ := idExInv_iff.mp h d hd
  rw [hdecoded] at hload ⊢
  exact controlOf_of_memRead hload

/-- An instruction in EX that is no transfer does not flush (R219). -/
theorem flush_of_ctl_none (hd : s.idEx = .occupied d) (hctl : d.sig.ctl = .NONE) : (wires s).flush = false := by
  simp [wires_flush, redirect_of_idEx hd, exRedirect, hctl, transferTaken]

/-! What a tick with a bubble leaves (R267, R269). -/

/-- A stall makes ID/EX a bubble and holds IF/ID and the pc. -/
theorem held_of_stall (h : tick s = .next t) (hstall : (wires s).stall = true) :
    t.idEx = .empty ∧ t.ifId = s.ifId ∧ t.pc = s.pc := by
  have hif := ifStage_of_tick h
  rw [redirect_of_flush_false (stall_iff.mp hstall).1, hstall] at hif
  obtain ⟨candidate, -, rfl⟩ := tick_next h
  refine ⟨?_, Prod.mk.inj hif⟩
  simp [idExNext, hstall]

/-- In a tick with a bubble ID's record is not genuine and IF's is idle (R294). -/
theorem records_of_bubble (h : (wires s).stall = true ∨ (wires s).flush = true) :
    (tickRecord s).atID.genuine = false ∧ (tickRecord s).atIF = idleRecord := by
  have hbubble : ((wires s).stall || (wires s).flush) = true := by simpa using h
  constructor
  · cases hf : s.ifId with
    | empty => simp [tickRecord, recordID, idleRecord, hf]
    | occupied f => simp [atID_of_ifId hf, activeRecord, -Bool.not_or, hbubble]
  · simp [tickRecord, recordIF, h.symm]

/-- A load with a bubble behind it: after one more tick a reader of its destination selects MEM/WB, which holds the loaded word. -/
theorem loaded_of_bubble {e : ExMem} (h : tick s = .next t) (hd : s.idEx = .empty) (he : s.exMem = .occupied e)
    (hload : e.memRead = true) (hwrite : e.regWrite = true) (hdest : e.dest ≠ 0) :
    forwardSelect t.exMem t.memWb e.dest true = .MEMWB ∧
      ∀ v, operandMux .MEMWB v t.exMem t.memWb = s.memRead e.aluResult := by
  rw [exMem_of_idEx_empty h hd, memWb_of_exMem h he]
  exact ⟨forwardSelect_of_memWbWrites hdest rfl (memWbWrites_iff.mpr ⟨_, rfl, hwrite, rfl⟩), fun _ => if_pos hload⟩

/-- With nothing in IF/ID a tick answers. -/
theorem tick_of_ifId_empty (hf : s.ifId = .empty) : ∃ u, tick s = .next u := ⟨_, tick_of_candidate (by rw [hf]; rfl)⟩

end

end Sys2Proof.Machine

open Sys2Proof Sys2Proof.Machine

/-! The obligations of 45_forwarding_hazard.md. -/

/-- Settles O36: the selection asks EX/MEM first, and register 0 before either. -/
theorem forwardingPriorityAndZero : Obligations.ForwardingPriorityAndZero := by
  refine ⟨fun e m r v hwrite hdest _ _ hr => ?_, fun em mw reads x => ⟨forwardSelect_zero em mw reads, ?_⟩⟩
  · have hsel : forwardSelect (.occupied e) (.occupied m) r true = .EXMEM :=
      forwardSelect_eq_exmem.mpr ⟨rfl, hr, exMemWrites_iff.mpr ⟨e, rfl, hwrite, hdest⟩⟩
    exact ⟨hsel, by rw [hsel]; rfl⟩
  · rw [forwardSelect_zero]
    rfl

/-- Settles O37: the forwarded value is the drained one when no load of the operand is in EX/MEM, which load-use rules out. -/
theorem forwardingDeliversTheProgramOrderValue : Obligations.ForwardingDeliversTheProgramOrderValue := by
  intro s d hinv hd
  obtain ⟨-, hIdEx, -, -, hLoadUse⟩ := hinv
  obtain ⟨ha, hb⟩ := hIdEx.operands hd
  obtain ⟨hrs, hrt⟩ := hLoadUse.operands_noLoadInMem hd
  rw [fwdA_of_idEx hd, fwdB_of_idEx hd, ha, hb]
  refine ⟨fun hreads => ?_, fun hreads => ?_, ?_⟩
  · rw [hreads]
    exact forwarded_eq_drained (hrs hreads)
  · rw [hreads]
    exact forwarded_eq_drained (hrt hreads)
  · rintro (hsel | hsel)
    · exact not_load_of_forwardSelect hrs hsel
    · exact not_load_of_forwardSelect hrt hsel

/-- Settles O41: `stall` excludes `flush`, and the control row of LOAD has no transfer. -/
theorem stallAndFlushNeverCoincide : Obligations.StallAndFlushNeverCoincide := by
  refine ⟨fun s ⟨hstall, hflush⟩ => ?_, fun s d hinv hd hload => ?_⟩
  · cases hflush.symm.trans (stall_iff.mp hstall).1
  · obtain ⟨-, hIdEx, -⟩ := hinv
    have hctl : d.sig.ctl = .NONE := by rw [hIdEx.sig_of_load hd hload]; rfl
    exact ⟨hctl, flush_of_ctl_none hd hctl⟩

/-- Settles O38: a load in EX never flushes, and the encoded word reads the source operands. -/
theorem stallConditionIsLoadUse : Obligations.StallConditionIsLoadUse := by
  refine ⟨fun s => ?_, fun s d pc i hinv hd hf hwf => ?_⟩
  · rw [stall_iff, loadUse_iff]
    refine and_congr_right fun _ => ⟨?_, ?_⟩
    · rintro ⟨d, f, hd, hf, hload, hdest, hreads⟩
      obtain ⟨i, hi, hfields⟩ := wordReads_iff.mp hreads
      exact ⟨d, f, i, hd, hf, hi, hload, hdest, hfields⟩
    · rintro ⟨d, f, i, hd, hf, hi, hload, hdest, hfields⟩
      exact ⟨d, f, hd, hf, hload, hdest, wordReads_iff.mpr ⟨i, hi, hfields⟩⟩
  · rw [stall_iff, loadUse_iff]
    constructor
    · rintro ⟨-, d', f, hd', hf', hload, hdest, hreads⟩
      cases hd.symm.trans hd'
      cases hf.symm.trans hf'
      exact ⟨hload, hdest, (wordReads_encode hwf _).mp hreads⟩
    · rintro ⟨hload, hdest, hsource⟩
      exact ⟨(stallAndFlushNeverCoincide.2 s d hinv hd hload).2, d, _, hd, hf, hload, hdest,
        (wordReads_encode hwf _).mpr hsource⟩

/-- Settles O39: the stall's bubble keeps the next tick free of stall and flush, and separates the load from its consumer by one
stage. -/
theorem stallLastsOneTick : Obligations.StallLastsOneTick := by
  intro s t d f hinv h hstall hd hf
  obtain ⟨-, hIdEx, -⟩ := hinv
  obtain ⟨hbubble, hifId, hpc⟩ := held_of_stall h hstall
  obtain ⟨hrecordID, hrecordIF⟩ := records_of_bubble (.inl hstall)
  obtain ⟨d', f', hd', -, hload, hdest, -⟩ := loadUse_iff.mp (stall_iff.mp hstall).2
  cases hd.symm.trans hd'
  have hwrite : d.sig.regWrite = true := by rw [hIdEx.sig_of_load hd hload]; rfl
  obtain ⟨-, hflush', hstall'⟩ := wires_of_idEx_empty t hbubble
  obtain ⟨a, b, he⟩ := exMem_of_idEx h hd
  refine ⟨hbubble, hifId, hpc, hrecordID, hrecordIF, x_of_tick h, dmem_of_tick h, memWb_of_tick h,
    _, he, rfl, rfl, hload, hstall', hflush', fun u hu => ?_⟩
  obtain ⟨i, hi⟩ := decodes_of_tick h hf
  have hc := idEx_of_ifId hu (hifId.trans hf) hi hflush' hstall'
  obtain ⟨hsel, hmux⟩ : forwardSelect u.exMem u.memWb d.dest true = .MEMWB ∧ _ :=
    loaded_of_bubble hu hbubble he hload hwrite hdest
  refine ⟨_, _, hc, rfl, rfl, memWb_of_exMem hu he, rfl, if_pos hload, fun hreads hrs => ?_, fun hreads hrt => ?_⟩
  · rw [fwdA_of_idEx hc, hreads, hrs, hsel]
    exact ⟨rfl, hmux _⟩
  · rw [fwdB_of_idEx hc, hreads, hrt, hsel]
    exact ⟨rfl, hmux _⟩

/-- Settles O40: the tick after a flush has nothing in ID and EX, so it answers and its IF is neither redirected nor held. -/
theorem flushDiscardsTheTwoYoungerSlots : Obligations.FlushDiscardsTheTwoYoungerSlots := by
  intro s t target h hredirect
  have hflush : (wires s).flush = true := by rw [wires_flush, hredirect]; rfl
  obtain ⟨d, hd⟩ := idEx_occupied_of_redirect s hredirect
  obtain ⟨hrecordID, hrecordIF⟩ := records_of_bubble (.inr hflush)
  obtain ⟨hidEx, hifId, hpc⟩ : t.idEx = .empty ∧ t.ifId = .empty ∧ t.pc = target := by
    obtain ⟨candidate, -, rfl⟩ := tick_next h
    exact tickNext_of_redirect s candidate hredirect
  obtain ⟨hredirect', hflush', hstall'⟩ := wires_of_idEx_empty t hidEx
  obtain ⟨u, hu⟩ := tick_of_ifId_empty hifId
  refine ⟨hflush, hidEx, hifId, hpc, x_of_tick h, dmem_of_tick h, ⟨d, hd, publishesFrom_of_idEx h hd⟩, hrecordID, hrecordIF,
    u, hu, fun w hw => ?_, fun hle => ?_⟩
  · rw [← hpc] at hw ⊢
    exact ifId_of_fetch hu hflush' hstall' hw
  · obtain ⟨-, -, -, hpast⟩ := fetchUnitHasFourCases t u hu
    rw [← hpc] at hle ⊢
    exact hpast hredirect' hstall' hle

end

section
/-! PROOFS. The clock driver (46_clock_driver.md): a sequential step, the records and the end of a run, the tick in call order, the
stages of one instruction as its effect, the architectural view across a tick, and the sequential machine along a run; then the
obligations of that family. -/

namespace Sys2Proof.Machine

/-! One step of the sequential machine (R303) and the loading device (log 6). -/

section
variable {s : State} {w : Word}

theorem step_of_decodes {i : Instr} (hw : s.fetch = some w) (hi : decodeWord w = some i) : step s = exec i s := by
  simp [step, hw, hi]

theorem step_of_reserved (hw : s.fetch = some w) (hi : decodeWord w = none) : step s = .fault (.reservedInstruction s.pc w) := by
  simp [step, hw, hi, reservedInstruction]

theorem step_of_fetch_none (hw : s.fetch = none) : step s = .next s := by
  simp [step, hw]

theorem placeWord_getElem?_self (imem : List Word) (i : Nat) (w : Word) : (placeWord imem i w)[i]? = some w := by
  unfold placeWord
  split
  · exact List.getElem?_set_self ‹_›
  · have hlen : (imem ++ List.replicate (i - imem.length) 0).length = i := by simp; omega
    rw [List.getElem?_append_right hlen.le, hlen, Nat.sub_self]
    rfl

theorem placeWord_getElem?_ne {imem : List Word} {i k : Nat} (w : Word) (hne : k ≠ i) (hk : k < imem.length) :
    (placeWord imem i w)[k]? = imem[k]? := by
  unfold placeWord
  split
  · exact List.getElem?_set_ne hne.symm
  · rw [List.append_assoc, List.getElem?_append_left hk]

theorem withFetchWord_toNat (s : State) (w : Word) : s.withFetchWord 32 w.toNat = s.placeFetchWord w := by
  simp [State.withFetchWord, Nat.mod_eq_of_lt w.isLt]

theorem fetch_placeFetchWord (s : State) (w : Word) : (s.placeFetchWord w).fetch = some w := placeWord_getElem?_self ..

end

/-! Records of a tick and the termination test (R294, R295). -/

section
variable {s t : State}

theorem history_of_tick (h : tick s = .next t) : t.history = s.history ++ [tickRecord s] := by
  obtain ⟨candidate, -, rfl⟩ := tick_next h
  rfl

theorem cycles_of_tick (h : tick s = .next t) : t.cycles = s.cycles + 1 := by
  obtain ⟨candidate, -, rfl⟩ := tick_next h
  rfl

theorem imem_of_tick (h : tick s = .next t) : t.imem = s.imem := by
  obtain ⟨candidate, -, rfl⟩ := tick_next h
  rfl

theorem atIF_of_fetch_none (hw : s.fetch = none) : (tickRecord s).atIF = idleRecord := by
  simp [tickRecord, recordIF, hw]

theorem busy_of_tick (h : tick s = .next t) : t.busy = (tickRecord s).anyGenuine := by
  simp [State.busy, history_of_tick h]

theorem atEX_genuine_eq_false : (tickRecord s).atEX.genuine = false ↔ s.idEx = .empty := by
  cases hd : s.idEx <;> simp [tickRecord, recordEX, idleRecord, activeRecord, hd]

theorem atMEM_genuine_eq_false : (tickRecord s).atMEM.genuine = false ↔ s.exMem = .empty := by
  cases he : s.exMem <;> simp [tickRecord, recordMEM, idleRecord, activeRecord, he]

/-- With nothing in EX there is no flush and no stall, so ID is idle on an empty input only. -/
theorem atID_genuine_eq_false (hd : s.idEx = .empty) : (tickRecord s).atID.genuine = false ↔ s.ifId = .empty := by
  obtain ⟨-, hflush, hstall⟩ := wires_of_idEx_empty s hd
  cases hf : s.ifId <;> simp [tickRecord, recordID, idleRecord, activeRecord, hf, hflush, hstall]

/-- With nothing in EX, IF is idle past the end only. -/
theorem atIF_genuine_eq_false (hd : s.idEx = .empty) : (tickRecord s).atIF.genuine = false ↔ s.fetch = none := by
  obtain ⟨-, hflush, hstall⟩ := wires_of_idEx_empty s hd
  cases hw : s.fetch <;> simp [tickRecord, recordIF, idleRecord, activeRecord, hw, hflush, hstall]

/-- No instruction is left to fetch and none is in IF/ID, ID/EX or EX/MEM. -/
def State.Drained (s : State) : Prop := s.fetch = none ∧ s.ifId = .empty ∧ s.idEx = .empty ∧ s.exMem = .empty

/-- The termination test ends the run after a tick that started drained (R295). -/
theorem busy_eq_false (h : tick s = .next t) : t.busy = false ↔ s.Drained := by
  simp only [busy_of_tick h, TickRecord.anyGenuine, Bool.or_eq_false_iff, atEX_genuine_eq_false, atMEM_genuine_eq_false]
  constructor
  · rintro ⟨⟨⟨hIF, hID⟩, hd⟩, he⟩
    exact ⟨(atIF_genuine_eq_false hd).mp hIF, (atID_genuine_eq_false hd).mp hID, hd, he⟩
  · rintro ⟨hw, hf, hd, he⟩
    exact ⟨⟨⟨(atIF_genuine_eq_false hd).mpr hw, (atID_genuine_eq_false hd).mpr hf⟩, hd⟩, he⟩

/-- A tick with a bubble has an instruction in EX, so it does not end a run. -/
theorem busy_of_bubble (h : tick s = .next t) (hbubble : (wires s).stall = true ∨ (wires s).flush = true) : t.busy = true := by
  refine Bool.eq_true_of_not_eq_false fun hbusy => ?_
  obtain ⟨-, -, hd, -⟩ := (busy_eq_false h).mp hbusy
  obtain ⟨-, hflush, hstall⟩ := wires_of_idEx_empty s hd
  simp [hflush, hstall] at hbubble

/-- A tick that starts drained empties MEM/WB and changes no other latch and not the pc. -/
theorem State.Drained.tick (hs : s.Drained) (h : tick s = .next t) : t.LatchesEmpty ∧ t.fetch = none := by
  obtain ⟨hw, hf, hd, he⟩ := hs
  obtain ⟨hredirect, -, hstall⟩ := wires_of_idEx_empty s hd
  have hif := ifStage_of_tick h
  rw [hredirect, hstall, hw] at hif
  obtain ⟨hf', hpc⟩ := Prod.mk.inj hif
  refine ⟨⟨hf', idEx_of_ifId_empty h hf, exMem_of_idEx_empty h hd, memWb_of_exMem_empty h he⟩, ?_⟩
  rw [State.fetch, hpc, imem_of_tick h]
  exact hw

theorem le_of_fetch_none (h : s.fetch = none) : s.imemLen ≤ s.pc.toNat := List.getElem?_eq_none_iff.mp h

end

/-! The driver's loop (R295, R300). -/

section
variable {s t u : State}

/-- The ticks of a finished run, from the last one back. -/
theorem finished_induction {motive : Nat → State → Prop}
    (last : ∀ fuel s, tick s = .next t → t.busy = false → motive (fuel + 1) s)
    (more : ∀ fuel s u, tick s = .next u → u.busy = true → motive fuel u → motive (fuel + 1) s) (fuel : Nat) (s : State)
    (h : run fuel s = .finished t) : motive fuel s := by
  induction fuel generalizing s with
  | zero => cases h
  | succ fuel ih =>
    cases hu : tick s with
    | fault reason => cases (run_succ_of_fault hu).symm.trans h
    | refused reason => exact absurd hu (tick_ne_refused s reason)
    | next u =>
      rw [run_succ_of_next hu] at h
      split at h
      · exact more fuel s u hu ‹_› (ih u h)
      · cases h
        exact last fuel s hu (Bool.eq_false_of_not_eq_true ‹_›)

theorem run_succ_running {n : Nat} (h : run (n + 1) s = .running u) :
    ∃ t, tick s = .next t ∧ t.busy = true ∧ run n t = .running u := by
  cases ht : tick s with
  | fault reason => cases (run_succ_of_fault ht).symm.trans h
  | refused reason => exact absurd ht (tick_ne_refused s reason)
  | next t =>
    rw [run_succ_of_next ht] at h
    split at h
    · exact ⟨t, rfl, ‹_›, h⟩
    · cases h

theorem finished_run_drained {fuel : Nat} (h : run fuel s = .finished t) :
    t.LatchesEmpty ∧ t.fetch = none ∧ t.imem = s.imem := by
  refine finished_induction (motive := fun _ s => t.LatchesEmpty ∧ t.fetch = none ∧ t.imem = s.imem) ?last ?more fuel s h
  case last =>
    intro _ s ht hbusy
    obtain ⟨hlatches, hfetch⟩ := ((busy_eq_false ht).mp hbusy).tick ht
    exact ⟨hlatches, hfetch, imem_of_tick ht⟩
  case more =>
    rintro _ s u hu - ⟨hlatches, hfetch, himem⟩
    exact ⟨hlatches, hfetch, himem.trans (imem_of_tick hu)⟩

section
variable {silent : Bool} {fuel : Nat} {decisions rest : List Decision}

/-- When the hook lets the driver go on, the hosted loop makes the tick and the test of the plain one. -/
theorem runHosted_succ_of_goOn (ht : tick s = .next t) (hgo : pauseHook silent decisions = .goOn rest) :
    runHosted silent (fuel + 1) decisions s = if t.busy then runHosted silent fuel rest t else .finished t := by
  rw [runHosted_succ_of_next ht, hgo]

theorem runHosted_succ_eq_run (hgo : pauseHook silent decisions = .goOn rest)
    (ih : ∀ t, runHosted silent fuel rest t = run fuel t) : runHosted silent (fuel + 1) decisions s = run (fuel + 1) s := by
  cases ht : tick s with
  | fault reason => rw [runHosted_succ_of_fault ht, run_succ_of_fault ht]
  | refused reason => exact absurd ht (tick_ne_refused s reason)
  | next t => rw [runHosted_succ_of_goOn ht hgo, run_succ_of_next ht, ih]

end

theorem runHosted_silent (fuel : Nat) (decisions : List Decision) (s : State) : runHosted true fuel decisions s = run fuel s := by
  induction fuel generalizing s with
  | zero => rfl
  | succ fuel ih => exact runHosted_succ_eq_run pauseHook_silent ih

theorem runHosted_of_enough_decisions {fuel : Nat} {decisions : List Decision} (hquit : .quit ∉ decisions)
    (hlen : fuel ≤ decisions.length) (s : State) : runHosted false fuel decisions s = run fuel s := by
  induction fuel generalizing s decisions with
  | zero => rfl
  | succ fuel ih =>
    cases decisions with
    | nil => cases hlen
    | cons d rest =>
      obtain ⟨hd, hrest⟩ := not_or.mp (List.mem_cons.not.mp hquit)
      exact runHosted_succ_eq_run (pauseHook_of_ne_quit (Ne.symm hd)) (ih hrest (Nat.le_of_succ_le_succ hlen))

/-- After as many ticks as decisions other than quit, the rest of the decisions meets the state that the plain run is in. -/
theorem runHosted_append {decisions rest : List Decision} {n : Nat} (hquit : .quit ∉ decisions)
    (h : run decisions.length s = .running u) :
    runHosted false (decisions.length + n) (decisions ++ rest) s = runHosted false n rest u := by
  induction decisions generalizing s with
  | nil =>
    cases h
    simp
  | cons d ds ih =>
    obtain ⟨hd, hds⟩ := not_or.mp (List.mem_cons.not.mp hquit)
    obtain ⟨t, ht, hbusy, hrun⟩ := run_succ_running h
    rw [List.length_cons, Nat.add_right_comm, List.cons_append, runHosted_succ_of_goOn ht (pauseHook_of_ne_quit (Ne.symm hd)),
      if_pos hbusy, ih hds hrun]

end

/-! The tick in the source's call order (R290, R293). -/

/-- A Word has no bits beyond the mask. -/
theorem and_mask (w : Word) : w &&& 0xFFFFFFFF = w := BitVec.and_allOnes

theorem remask_eq (s : State) : remask s = s := by
  simp only [remask, and_mask, Vector.map_id_fun', List.map_id_fun', id]

/-- The state after the calls of the forwarding unit, WB, MEM and EX. -/
def State.afterEX (s : State) : State := (callEX (callForwarding s) (callMEM (callWB s))).1

theorem callEX_eq (s : State) : callEX (callForwarding s) (callMEM (callWB s)) = (s.afterEX, (wires s).redirect) := rfl

section
variable {s : State} {candidate : Latch IdEx}

/-- ID finds IF/ID as it was and the register file as WB has left it. -/
theorem callID_of_error {reason : Fault} (h : idStage s.ifId (wbStage s.x s.memWb) = .error reason) :
    callID s.afterEX = .error reason := by
  have hid : idStage s.afterEX.ifId s.afterEX.x = .error reason := h
  rw [callID, hid]

theorem callID_of_ok (h : idStage s.ifId (wbStage s.x s.memWb) = .ok candidate) :
    callID s.afterEX = .ok { s.afterEX with idEx := candidate } := by
  have hid : idStage s.afterEX.ifId s.afterEX.x = .ok candidate := h
  rw [callID, hid]

/-- The hazard unit finds in `EX_MEM'` the load that was in ID/EX (log 13). -/
theorem callHazard_eq (s : State) (candidate : Latch IdEx) :
    callHazard (wires s).redirect { s.afterEX with idEx := candidate } =
      ({ s.afterEX with idEx := idExNext (wires s) candidate }, (wires s).stall) := by
  have hstall : (callHazard (wires s).redirect { s.afterEX with idEx := candidate }).2 = (wires s).stall := by
    simp only [callHazard, wires, stallOf, State.afterEX, callEX, callMEM, callWB, callForwarding]
    cases s.idEx <;> cases s.ifId <;> rfl
  rw [idExNext, ← hstall]
  rfl

end

theorem tickOrdered_eq (s : State) : tickOrdered s = tick s := by
  cases hid : idStage s.ifId (wbStage s.x s.memWb) with
  | error reason => simp only [tickOrdered, callEX_eq, callID_of_error hid, tick, hid]
  | ok candidate =>
    rw [tick_of_candidate hid]
    simp only [tickOrdered, callEX_eq, callID_of_ok hid, callHazard_eq, remask_eq]
    rfl

/-! One instruction by its stages. -/

/-- `u` after the instruction `d` of ID/EX has passed EX, MEM and WB with the operands `a`, `b`, no other instruction between
(R217 to R222). -/
def State.afterStages (u : State) (d : IdEx) (a b : Word) : State :=
  { u with
    x    := wbStage u.x (memStageLatch u.dmem (.occupied (exPublish d a b)))
    dmem := memStageMemory u.dmem (.occupied (exPublish d a b))
    pc   := (exRedirect d a b).getD (nextIndex d.pc) }

theorem branch_eq_redirect (s : State) (ctl : CtlKind) (rs rt : RegIx) (imm : Imm16) :
    s.branch ctl rs rt imm =
      { s with pc := (if transferTaken ctl (s.readReg rs) (s.readReg rt) then some (branchTarget s.pc imm) else none).getD
                       (nextIndex s.pc) } := by
  unfold State.branch
  split <;> rfl

/-- An instruction executed alone does what its stages do, on operands that hold what its source registers do. -/
theorem exec_eq_afterStages {i : Instr} {u : State} {x : RegFile} {a b : Word}
    (ha : (controlOf i).readsRs = true → a = u.readReg (rsOf (encode i)))
    (hb : (controlOf i).readsRt = true → b = u.readReg (rtOf (encode i))) :
    exec i u = .next (u.afterStages (idCandidate { pc := u.pc, instr := encode i } i x) a b) := by
  cases i
  case nop | lui | j | jal => rfl
  case addi | andi | ori | xori | slti | slli | srli | srai | load =>
    cases ha rfl
    simp only [encode, rsOf_encodeI]
    rfl
  case jr =>
    cases ha rfl
    simp only [encode, rsOf_encodeJR]
    rfl
  case store =>
    cases ha rfl
    cases hb rfl
    simp only [encode, rsOf_encodeI, rtOf_encodeI]
    rfl
  case beq | bne | blt | bge =>
    cases ha rfl
    cases hb rfl
    simp only [encode, rsOf_encodeI, rtOf_encodeI]
    exact congrArg Host.Outcome.next (branch_eq_redirect ..)
  all_goals
    cases ha rfl
    cases hb rfl
    simp only [encode, rsOf_encodeR, rtOf_encodeR]
    rfl

/-- The same of an instruction in ID/EX, by its decoded fields. -/
theorem exec_decoded_eq_afterStages {i : Instr} {d : IdEx} {u : State} {x : RegFile} {a b : Word}
    (hi : decodeWord d.instr = some i) (hd : d = idCandidate { pc := d.pc, instr := d.instr } i x) (hpc : d.pc = u.pc)
    (ha : d.sig.readsRs = true → a = u.readReg d.rs) (hb : d.sig.readsRt = true → b = u.readReg d.rt) :
    exec i u = .next (u.afterStages d a b) := by
  obtain ⟨-, hencode⟩ := encode_of_decodeWord hi
  rw [hpc, ← hencode] at hd
  subst hd
  exact exec_eq_afterStages ha hb

/-! The architectural view across a tick (R303, R354). -/

section
variable {s t : State} {d : IdEx}

theorem behindPc_of_ifId_empty (hf : s.ifId = .empty) : s.behindPc = s.pc := by
  rw [State.behindPc, hf]

theorem behindPc_of_ifId {f : IfId} (hf : s.ifId = .occupied f) : s.behindPc = f.pc := by
  rw [State.behindPc, hf]

theorem architectural_of_idEx_empty (hd : s.idEx = .empty) : s.architectural = s.drainedAt s.behindPc := by
  rw [State.architectural, hd]

/-- An instruction in ID/EX is executed in the drained state. -/
theorem exec_drainedAt {i : Instr} (hd : s.idEx = .occupied d) (hi : decodeWord d.instr = some i) :
    exec i (s.drainedAt d.pc) = .next s.architectural := by
  obtain ⟨u, hu⟩ := exec_answers i (s.drainedAt d.pc)
  simp [State.architectural, hd, hi, hu]

/-- After a tick, what was in MEM/WB and EX/MEM has completed, and the stages of the instruction in EX are left. -/
theorem drainedAt_of_tick (h : tick s = .next t) (pc : Word) :
    t.drainedAt pc =
      { State.reset with
        x    := wbStage s.drainedRegs (memStageLatch (memStageMemory s.dmem s.exMem) t.exMem)
        dmem := memStageMemory (memStageMemory s.dmem s.exMem) t.exMem
        imem := s.imem
        pc   := pc } := by
  rw [State.drainedAt, State.drainedRegs, x_of_tick h, memWb_of_tick h, dmem_of_tick h, imem_of_tick h]
  rfl

theorem drainedAt_of_idEx_empty (h : tick s = .next t) (hd : s.idEx = .empty) (pc : Word) : t.drainedAt pc = s.drainedAt pc := by
  rw [drainedAt_of_tick h, exMem_of_idEx_empty h hd]
  rfl

/-- The architectural view when a tick starts is what that tick leaves drained, at the target of the transfer in EX or at the next
instruction behind it. -/
theorem architectural_eq_drainedAt (hs : s.PipeInv) (h : tick s = .next t) :
    s.architectural = t.drainedAt ((wires s).redirect.getD s.behindPc) := by
  cases hd : s.idEx with
  | empty =>
    rw [architectural_of_idEx_empty hd, drainedAt_of_idEx_empty h hd, (wires_of_idEx_empty s hd).1]
    rfl
  | occupied d =>
    obtain ⟨ha, hb, -⟩ := forwardingDeliversTheProgramOrderValue s d hs hd
    obtain ⟨-, hIdEx, -⟩ := hs
    obtain ⟨-, ⟨i, hi, hdecoded⟩, hbehind⟩ := idExInv_iff.mp hIdEx d hd
    have hexec := exec_decoded_eq_afterStages (u := s.drainedAt d.pc) hi hdecoded rfl ha hb
    rw [Host.Outcome.next.inj ((exec_drainedAt hd hi).symm.trans hexec), drainedAt_of_tick h, exMem_of_tick h, redirect_of_idEx hd,
      hbehind, hd]
    rfl

/-- A tick that puts an instruction into ID/EX does not redirect, and the instruction comes from IF/ID. -/
theorem ifId_of_idEx_occupied (h : tick s = .next t) (hd : t.idEx = .occupied d) :
    (wires s).redirect = none ∧ ∃ f i, s.ifId = .occupied f ∧ decodeWord f.instr = some i ∧ d = idCandidate f i t.x := by
  obtain ⟨candidate, hid, rfl⟩ := tick_next h
  obtain ⟨hredirect, -, hf⟩ := idEx_after_tick hid hd
  exact ⟨hredirect, hf⟩

/-- A tick that puts a bubble into ID/EX leaves as next instruction the target of the transfer in EX, or the one that was next. -/
theorem behindPc_of_bubble (h : tick s = .next t) (hd : t.idEx = .empty) :
    t.behindPc = (wires s).redirect.getD s.behindPc := by
  cases hredirect : (wires s).redirect with
  | some target =>
    obtain ⟨candidate, -, rfl⟩ := tick_next h
    obtain ⟨-, hf, hpc⟩ := tickNext_of_redirect s candidate hredirect
    exact (behindPc_of_ifId_empty hf).trans hpc
  | none =>
    cases hstall : (wires s).stall with
    | true =>
      obtain ⟨-, hf, hpc⟩ := held_of_stall h hstall
      rw [State.behindPc, hf, hpc]
      rfl
    | false =>
      have hf : s.ifId = .empty := by
        cases hf : s.ifId with
        | empty => rfl
        | occupied f =>
          obtain ⟨i, hi⟩ := decodes_of_tick h hf
          have hflush : (wires s).flush = false := by rw [wires_flush, hredirect]; rfl
          cases hd.symm.trans (idEx_of_ifId h hf hi hflush hstall)
      obtain ⟨candidate, -, rfl⟩ := tick_next h
      exact (behindPc_tickNext hredirect hstall).trans (behindPc_of_ifId_empty hf).symm

/-- A bubble is no step of the sequential machine. -/
theorem architectural_of_bubble (hs : s.PipeInv) (h : tick s = .next t) (hd : t.idEx = .empty) :
    t.architectural = s.architectural := by
  rw [architectural_of_idEx_empty hd, behindPc_of_bubble h hd, architectural_eq_drainedAt hs h]

/-- When an instruction enters ID/EX, the sequential machine is about to execute it. -/
theorem architectural_of_idEx_occupied (hs : s.PipeInv) (h : tick s = .next t) (hd : t.idEx = .occupied d) :
    s.architectural = t.drainedAt d.pc ∧ s.architectural.fetch = some d.instr := by
  obtain ⟨hredirect, f, i, hf, hi, rfl⟩ := ifId_of_idEx_occupied h hd
  have ⟨hIfId, _⟩ := hs
  obtain ⟨hword, -⟩ := ifIdInv_iff.mp hIfId f hf
  have harch := architectural_eq_drainedAt hs h
  rw [hredirect, behindPc_of_ifId hf] at harch
  rw [harch]
  exact ⟨rfl, (congrArg (·[f.pc.toNat]?) (imem_of_tick h)).trans hword⟩

theorem step_architectural (hs : s.PipeInv) (h : tick s = .next t) (hd : t.idEx = .occupied d) :
    step s.architectural = .next t.architectural := by
  obtain ⟨harch, hfetch⟩ := architectural_of_idEx_occupied hs h hd
  obtain ⟨-, f, i, -, hi, rfl⟩ := ifId_of_idEx_occupied h hd
  rw [step_of_decodes hfetch hi, harch]
  exact exec_drainedAt hd hi

end

/-! Runs of the sequential machine (R303). -/

/-- What a run did, with instructions and accesses of the steps before it in front. -/
def SeqRun.after (r : SeqRun) (executed : List (Word × Word)) (accesses : List MemAccess) : SeqRun :=
  { r with executed := executed ++ r.executed, accesses := accesses ++ r.accesses }

section
variable {s t : State} {n : Nat} {r q : SeqRun}

theorem seqRun_of_halted (hw : s.fetch = none) : seqRun n s = some { final := s, executed := [], accesses := [] } := by
  cases n <;> simp [seqRun, hw]

theorem seqRun_succ_of_step {w : Word} (hw : s.fetch = some w) (ht : step s = .next t) :
    seqRun (n + 1) s = (seqRun n t).map fun r => r.after [(s.pc, w)] (stepAccess s).toList := by
  simp only [seqRun, hw, ht]
  rfl

/-- A halted run was past the end, or is one step and the run from there. -/
theorem seqRun_cases (h : seqRun n s = some r) :
    (s.fetch = none ∧ r = { final := s, executed := [], accesses := [] }) ∨
      ∃ w k t q, n = k + 1 ∧ s.fetch = some w ∧ step s = .next t ∧ seqRun k t = some q ∧
        r = q.after [(s.pc, w)] (stepAccess s).toList := by
  cases hw : s.fetch with
  | none => exact .inl ⟨rfl, Option.some.inj (h.symm.trans (seqRun_of_halted hw))⟩
  | some w =>
    cases n with
    | zero => simp [seqRun, hw] at h
    | succ k =>
      cases ht : step s with
      | fault reason => simp [seqRun, hw, ht] at h
      | refused reason => simp [seqRun, hw, ht] at h
      | next t =>
        rw [seqRun_succ_of_step hw ht] at h
        obtain ⟨q, hq, hr⟩ := Option.map_eq_some_iff.mp h
        exact .inr ⟨w, k, t, q, rfl, rfl, rfl, hq, hr.symm⟩

/-- The fuel decides only whether a run halts, not what it did. -/
theorem seqRun_unique {m : Nat} (hn : seqRun n s = some r) (hm : seqRun m s = some q) : r = q := by
  induction n generalizing s m r q with
  | zero =>
    obtain ⟨hw, rfl⟩ | ⟨_, _, _, _, h, -⟩ := seqRun_cases hn
    · exact Option.some.inj ((seqRun_of_halted hw).symm.trans hm)
    · cases h
  | succ n ih =>
    obtain ⟨hw, rfl⟩ | ⟨w, k, t, r', hk, hw, ht, hr', rfl⟩ := seqRun_cases hn
    · exact Option.some.inj ((seqRun_of_halted hw).symm.trans hm)
    · cases hk
      obtain ⟨hw', -⟩ | ⟨w', k', t', q', -, hw', ht', hq', rfl⟩ := seqRun_cases hm
      · cases hw.symm.trans hw'
      · cases hw.symm.trans hw'
        cases ht.symm.trans ht'
        rw [ih hr' hq']

end

/-! The instructions between ID and retirement, and the accesses they will make (R331). -/

/-- The index and the word in a latch. -/
def Latch.entry {α : Type} (pcOf wordOf : α → Word) : Latch α → Option (Word × Word)
  | .empty => none
  | .occupied v => some (pcOf v, wordOf v)

/-- The instruction in ID/EX. -/
def State.exEntry (s : State) : Option (Word × Word) := s.idEx.entry IdEx.pc IdEx.instr

/-- The instruction in EX/MEM. -/
def State.memEntry (s : State) : Option (Word × Word) := s.exMem.entry ExMem.pc ExMem.instr

/-- The instruction in MEM/WB. -/
def State.wbEntry (s : State) : Option (Word × Word) := s.memWb.entry MemWb.pc MemWb.instr

/-- The instructions that are past ID and have not retired, oldest first. -/
def State.inFlight (s : State) : List (Word × Word) := s.wbEntry.toList ++ s.memEntry.toList ++ s.exEntry.toList

/-- The access of the instruction in ID/EX, once those before it have completed. -/
def State.exAccess (s : State) : Option MemAccess :=
  match s.idEx with
  | .empty => none
  | .occupied d => stepAccess (s.drainedAt d.pc)

/-- The accesses that the instructions past ID have still to make, oldest first. -/
def State.pendingAccesses (s : State) : List MemAccess := (tickAccess s).toList ++ s.exAccess.toList

section
variable {s t : State}

theorem retiredEntry_tickRecord (s : State) : retiredEntry (tickRecord s) = s.wbEntry := by
  cases hm : s.memWb <;> simp [retiredEntry, tickRecord, recordWB, idleRecord, activeRecord, State.wbEntry, Latch.entry, hm]

theorem atWB_genuine (s : State) : (tickRecord s).atWB.genuine = s.wbEntry.isSome := by
  cases hm : s.memWb <;> simp [tickRecord, recordWB, idleRecord, activeRecord, State.wbEntry, Latch.entry, hm]

theorem memEntry_of_tick (h : tick s = .next t) : t.memEntry = s.exEntry := by
  rw [State.memEntry, State.exEntry, exMem_of_tick h]
  cases s.idEx <;> rfl

theorem wbEntry_of_tick (h : tick s = .next t) : t.wbEntry = s.memEntry := by
  rw [State.wbEntry, State.memEntry, memWb_of_tick h]
  cases s.exMem <;> rfl

/-- In a tick the oldest instruction in flight retires and the one from ID joins. -/
theorem inFlight_of_tick (h : tick s = .next t) : s.wbEntry.toList ++ t.inFlight = s.inFlight ++ t.exEntry.toList := by
  simp only [State.inFlight, wbEntry_of_tick h, memEntry_of_tick h, List.append_assoc]

/-- The access of an instruction, as MEM makes it of what EX has published with its operands `a`, `b`. -/
theorem stepAccess_of_stages {i : Instr} {d : IdEx} {u : State} {x : RegFile} {a b : Word} (hw : u.fetch = some d.instr)
    (hi : decodeWord d.instr = some i) (hd : d = idCandidate { pc := d.pc, instr := d.instr } i x)
    (ha : d.sig.readsRs = true → a = u.readReg d.rs) (hb : d.sig.readsRt = true → b = u.readReg d.rt) :
    stepAccess u = tickAccess { u with exMem := .occupied (exPublish d a b) } := by
  obtain ⟨-, hencode⟩ := encode_of_decodeWord hi
  rw [stepAccess, hw, Option.bind_some, hi]
  clear hw hi
  generalize d.pc = pc at hd
  rw [← hencode] at hd
  subst hd
  cases i
  case load =>
    cases ha rfl
    simp only [idCandidate, encode, rsOf_encodeI]
    rfl
  case store =>
    cases ha rfl
    cases hb rfl
    simp only [idCandidate, encode, rsOf_encodeI, rtOf_encodeI]
    rfl
  all_goals rfl

/-- The instruction in ID/EX makes its access in the next tick. -/
theorem tickAccess_of_tick (hs : s.PipeInv) (h : tick s = .next t) : tickAccess t = s.exAccess := by
  cases hd : s.idEx with
  | empty => simp [tickAccess, State.exAccess, exMem_of_idEx_empty h hd, hd]
  | occupied d =>
    obtain ⟨ha, hb, -⟩ := forwardingDeliversTheProgramOrderValue s d hs hd
    obtain ⟨-, hIdEx, -⟩ := hs
    obtain ⟨hword, ⟨i, hi, hdecoded⟩, -⟩ := idExInv_iff.mp hIdEx d hd
    have haccess := stepAccess_of_stages (u := s.drainedAt d.pc) hword hi hdecoded ha hb
    rw [State.exAccess, hd]
    refine Eq.trans ?_ haccess.symm
    rw [tickAccess, exMem_of_tick h, dmem_of_tick h, hd]
    rfl

theorem pendingAccesses_of_tick (hs : s.PipeInv) (h : tick s = .next t) :
    (tickAccess s).toList ++ t.pendingAccesses = s.pendingAccesses ++ t.exAccess.toList := by
  simp only [State.pendingAccesses, tickAccess_of_tick hs h, List.append_assoc]

/-! The sequential run along a tick. -/

theorem exEntry_of_bubble (hd : t.idEx = .empty) : t.exEntry = none := by
  rw [State.exEntry, hd]
  rfl

theorem exAccess_of_bubble (hd : t.idEx = .empty) : t.exAccess = none := by
  rw [State.exAccess, hd]

/-- A run of the sequential machine from the view after a tick, continued back to the view before it: with the instruction that the
tick has put into ID/EX in front, if there is one. -/
theorem seqRun_before_tick {n : Nat} {r : SeqRun} (hs : s.PipeInv) (h : tick s = .next t)
    (hr : seqRun n t.architectural = some r) :
    ∃ k, seqRun k s.architectural = some (r.after t.exEntry.toList t.exAccess.toList) := by
  cases hd : t.idEx with
  | empty =>
    rw [exEntry_of_bubble hd, exAccess_of_bubble hd, ← architectural_of_bubble hs h hd]
    exact ⟨n, hr⟩
  | occupied d =>
    obtain ⟨harch, hfetch⟩ := architectural_of_idEx_occupied hs h hd
    refine ⟨n + 1, ?_⟩
    rw [seqRun_succ_of_step hfetch (step_architectural hs h hd), hr, harch, State.exEntry, State.exAccess, hd]
    rfl

/-- After an instruction has entered ID/EX the sequential run has one step less to make. -/
theorem seqRun_after_tick {n : Nat} {d : IdEx} (hs : s.PipeInv) (h : tick s = .next t) (hd : t.idEx = .occupied d)
    (hr : (seqRun n s.architectural).isSome = true) : ∃ k, n = k + 1 ∧ (seqRun k t.architectural).isSome = true := by
  obtain ⟨-, hfetch⟩ := architectural_of_idEx_occupied hs h hd
  obtain ⟨r, hr⟩ := Option.isSome_iff_exists.mp hr
  obtain ⟨hhalted, -⟩ | ⟨_, k, _, q, hk, -, hstep, hq, -⟩ := seqRun_cases hr
  · cases hfetch.symm.trans hhalted
  · cases (step_architectural hs h hd).symm.trans hstep
    exact ⟨k, hk, Option.isSome_iff_exists.mpr ⟨q, hq⟩⟩

/-! A finished run of the pipeline and the sequential run of its view (R303). -/

theorem architectural_of_latchesEmpty (hs : s.LatchesEmpty) :
    s.architectural = { State.reset with x := s.x, pc := s.pc, dmem := s.dmem, imem := s.imem } := by
  obtain ⟨hf, hd, he, hm⟩ := hs
  rw [architectural_of_idEx_empty hd, behindPc_of_ifId_empty hf, State.drainedAt, State.drainedRegs, he, hm]
  rfl

/-- Before its first tick the pipeline is in the state of the sequential machine (R303, R350). -/
theorem architectural_of_launched (hs : s.Launched) : s.architectural = s := by
  obtain ⟨hlatches, hhistory, hcycles, -⟩ := hs
  rw [architectural_of_latchesEmpty hlatches]
  obtain ⟨hf, hd, he, hm⟩ := hlatches
  cases s
  simp only at hhistory hcycles hf hd he hm
  subst hhistory hcycles hf hd he hm
  rfl

theorem inFlight_of_latchesEmpty (hs : s.LatchesEmpty) : s.inFlight = [] := by
  obtain ⟨-, hd, he, hm⟩ := hs
  rw [State.inFlight, State.wbEntry, State.memEntry, State.exEntry, hd, he, hm]
  rfl

theorem pendingAccesses_of_latchesEmpty (hs : s.LatchesEmpty) : s.pendingAccesses = [] := by
  obtain ⟨-, hd, he, -⟩ := hs
  rw [State.pendingAccesses, tickAccess, State.exAccess, hd, he]
  rfl

theorem runStates_succ_of_next {n : Nat} (h : tick s = .next t) :
    runStates (n + 1) s = s :: if t.busy then runStates n t else [] := by
  simp [runStates, h]

/-- The records of a run are those of its ticks (R294). -/
theorem history_of_finished {m : Nat} (h : run m s = .finished t) : t.history = s.history ++ (runStates m s).map tickRecord := by
  refine finished_induction (motive := fun m s => t.history = s.history ++ (runStates m s).map tickRecord) ?last ?more m s h
  case last =>
    intro m s ht hbusy
    simp [runStates_succ_of_next ht, hbusy, history_of_tick ht]
  case more =>
    intro m s u hu hbusy ih
    simp [runStates_succ_of_next hu, hbusy, ih, history_of_tick hu]

section
variable {m : Nat} (h : run m s = .finished t) (hhistory : s.history = [])
include h hhistory

/-- What a run has retired is what passed WB in its ticks. -/
theorem retired_of_finished : retired t.history = (runStates m s).filterMap State.wbEntry := by
  have hentry : retiredEntry ∘ tickRecord = State.wbEntry := funext retiredEntry_tickRecord
  rw [retired, history_of_finished h, hhistory, List.nil_append, List.filterMap_map, hentry]

/-- Every genuine WB record is a retired instruction (R331). -/
theorem length_genuine_of_finished : (t.history.filter fun e => e.atWB.genuine).length = (retired t.history).length := by
  have hgenuine : (fun e : TickRecord => e.atWB.genuine) ∘ tickRecord = fun s => s.wbEntry.isSome := funext atWB_genuine
  rw [retired_of_finished h hhistory, history_of_finished h, hhistory, List.nil_append, List.filter_map, List.length_map, hgenuine,
    List.length_filterMap_eq_countP, List.countP_eq_length_filter]

end

/-- The run of the pipeline through the tick states `states` from `s` to `t` did what the sequential run `r` did, after what was
in flight in `s`. -/
def MatchesRun (s t : State) (states : List State) (r : SeqRun) : Prop :=
  t.architectural = r.final ∧ states.filterMap State.wbEntry = s.inFlight ++ r.executed ∧
    states.filterMap tickAccess = s.pendingAccesses ++ r.accesses

theorem filterMap_cons_toList {α β : Type} (f : α → Option β) (a : α) (l : List α) :
    (a :: l).filterMap f = (f a).toList ++ l.filterMap f := by
  simp only [List.filterMap_eq_flatMap_toList, List.flatMap_cons]

/-- One tick more in front, with the instruction that it puts into ID/EX. -/
theorem MatchesRun.before_tick {u : State} {states : List State} {r : SeqRun} (hr : MatchesRun t u states r) (hs : s.PipeInv)
    (h : tick s = .next t) : MatchesRun s u (s :: states) (r.after t.exEntry.toList t.exAccess.toList) := by
  obtain ⟨hfinal, hexecuted, haccesses⟩ := hr
  refine ⟨hfinal, ?_, ?_⟩
  · rw [filterMap_cons_toList, hexecuted, ← List.append_assoc, inFlight_of_tick h, List.append_assoc]
    rfl
  · rw [filterMap_cons_toList, haccesses, ← List.append_assoc, pendingAccesses_of_tick hs h, List.append_assoc]
    rfl

theorem seqRun_of_finished {m : Nat} (hs : s.PipeInv) (h : run m s = .finished t) :
    ∃ n r, seqRun n s.architectural = some r ∧ MatchesRun s t (runStates m s) r := by
  obtain ⟨hlatches, hfetch, -⟩ := finished_run_drained h
  refine finished_induction
    (motive := fun m s => s.PipeInv → ∃ n r, seqRun n s.architectural = some r ∧ MatchesRun s t (runStates m s) r)
    ?last ?more m s h hs
  case last =>
    intro m s ht hbusy hs
    have hhalted : t.architectural.fetch = none := by
      rw [architectural_of_latchesEmpty hlatches]
      exact hfetch
    have hmatch : MatchesRun t t [] { final := t.architectural, executed := [], accesses := [] } :=
      ⟨rfl, by simp [inFlight_of_latchesEmpty hlatches], by simp [pendingAccesses_of_latchesEmpty hlatches]⟩
    obtain ⟨n, hn⟩ := seqRun_before_tick hs ht (seqRun_of_halted (n := 0) hhalted)
    refine ⟨n, _, hn, ?_⟩
    rw [runStates_succ_of_next ht, hbusy]
    exact hmatch.before_tick hs ht
  case more =>
    intro m s u hu hbusy ih hs
    obtain ⟨k, r, hk, hmatch⟩ := ih (hs.tick hu)
    obtain ⟨n, hn⟩ := seqRun_before_tick hs hu hk
    refine ⟨n, _, hn, ?_⟩
    rw [runStates_succ_of_next hu, hbusy]
    exact hmatch.before_tick hs hu

end

/-! A halted sequential run makes the pipeline run end (R295, R297). -/

/-- A bound on the ticks with a bubble that follow in a row: what is in ID/EX, IF/ID and EX/MEM tells how soon the next instruction
enters ID/EX or the run ends. -/
def State.bubbleBound (s : State) : Nat :=
  match s.idEx, s.ifId, s.exMem with
  | .occupied _, _, _ => 3
  | .empty, .occupied _, _ => 0
  | .empty, .empty, .occupied _ => 2
  | .empty, .empty, .empty => 1

section
variable {s t : State}

theorem bubbleBound_le (s : State) : s.bubbleBound ≤ 3 := by
  unfold State.bubbleBound
  split <;> omega

theorem bubbleBound_le_of_bubble (hd : s.idEx = .empty) : s.bubbleBound ≤ 2 := by
  cases hf : s.ifId <;> cases he : s.exMem <;> simp [State.bubbleBound, hd, hf, he]

/-- Each tick with a bubble that does not end the run lowers the bound. -/
theorem bubbleBound_lt (h : tick s = .next t) (hd : t.idEx = .empty) (hbusy : t.busy = true) : t.bubbleBound < s.bubbleBound := by
  cases hd' : s.idEx with
  | occupied d =>
    have ht : t.bubbleBound ≤ 2 := bubbleBound_le_of_bubble hd
    have hs : s.bubbleBound = 3 := by simp [State.bubbleBound, hd']
    omega
  | empty =>
    obtain ⟨-, hflush, hstall⟩ := wires_of_idEx_empty s hd'
    cases hf : s.ifId with
    | occupied f =>
      obtain ⟨i, hi⟩ := decodes_of_tick h hf
      cases hd.symm.trans (idEx_of_ifId h hf hi hflush hstall)
    | empty =>
      have hs : 0 < s.bubbleBound := by cases he : s.exMem <;> simp [State.bubbleBound, hd', hf, he]
      cases hw : s.fetch with
      | some w =>
        have ht : t.bubbleBound = 0 := by simp [State.bubbleBound, hd, ifId_of_fetch h hflush hstall hw]
        omega
      | none =>
        have ht : t.bubbleBound = 1 := by
          simp [State.bubbleBound, hd, ifId_of_fetch_none h hw hstall, exMem_of_idEx_empty h hd']
        cases he : s.exMem with
        | empty => cases hbusy.symm.trans ((busy_eq_false h).mpr ⟨hw, hf, hd', he⟩)
        | occupied e =>
          have hs : s.bubbleBound = 2 := by simp [State.bubbleBound, hd', hf, he]
          omega

/-- Under valid words and a consistent IF/ID no reserved word reaches ID (R323). -/
theorem tick_answers_of_valid (hvalid : ∀ w ∈ s.imem, validWord w = true) (hif : s.IfIdInv) : ∃ t, tick s = .next t := by
  cases hf : s.ifId with
  | empty => exact tick_of_ifId_empty hf
  | occupied f =>
    obtain ⟨hword, -⟩ := ifIdInv_iff.mp hif f hf
    obtain ⟨i, hi⟩ := validWord_iff_decodes.mp (hvalid _ (List.mem_of_getElem? hword))
    exact ⟨_, tick_of_candidate (by rw [hf]; exact idStage_of_decodes hi)⟩

/-- A halted sequential run of `n` steps ends the pipeline's: each of its steps takes at most four ticks. -/
theorem finished_of_seqRun {n m : Nat} (hs : s.PipeInv) (hvalid : ∀ w ∈ s.imem, validWord w = true)
    (hr : (seqRun n s.architectural).isSome = true) (hm : 4 * n + s.bubbleBound < m) : ∃ t, run m s = .finished t := by
  induction m generalizing s n with
  | zero => omega
  | succ m ih =>
    have ⟨hIfId, _⟩ := hs
    obtain ⟨t, ht⟩ := tick_answers_of_valid hvalid hIfId
    have hvalid' : ∀ w ∈ t.imem, validWord w = true := imem_of_tick ht ▸ hvalid
    rw [run_succ_of_next ht]
    cases hbusy : t.busy with
    | false => exact ⟨t, rfl⟩
    | true =>
      simp only [if_true]
      cases hd : t.idEx with
      | empty =>
        have hlt := bubbleBound_lt ht hd hbusy
        exact ih (hs.tick ht) hvalid' (architectural_of_bubble hs ht hd ▸ hr) (by omega)
      | occupied d =>
        obtain ⟨k, rfl, hk⟩ := seqRun_after_tick hs ht hd hr
        have hle := bubbleBound_le t
        exact ih (hs.tick ht) hvalid' hk (by omega)

end

end Sys2Proof.Machine

open Sys2Proof Sys2Proof.Machine

/-! The obligations of 46_clock_driver.md. -/

/-- Settles O51: the view at the start of a tick is what the tick leaves drained, so a bubble keeps it and an instruction that
enters ID/EX is its next step. -/
theorem tickRefinesTheSequentialMachine : Obligations.TickRefinesTheSequentialMachine := fun _ _ hs h =>
  ⟨hs.tick h, architectural_of_bubble hs h, fun _ => step_architectural hs h⟩

/-- Settles O52: tick by tick the view of the pipeline follows the sequential machine, and bubbles come at most three in a row. -/
theorem pipelineImplementsTheSequentialSemantics : Obligations.PipelineImplementsTheSequentialSemantics := by
  intro s hlaunched
  have harch := architectural_of_launched hlaunched
  obtain ⟨hlatches, hhistory, -, -, hvalid⟩ := hlaunched
  have hs := hlatches.pipeInv
  refine ⟨⟨fun ⟨n, r, hr⟩ => ?halts, fun ⟨m, t, hm⟩ => ?ends⟩, fun n r m t hr hm => ?same⟩
  case halts =>
    have hview : (seqRun n s.architectural).isSome = true := by rw [harch, hr]; rfl
    exact ⟨_, finished_of_seqRun hs hvalid hview (Nat.lt_succ_self _)⟩
  case ends =>
    obtain ⟨n, r, hr, -⟩ := seqRun_of_finished hs hm
    exact ⟨n, r, harch ▸ hr⟩
  case same =>
    obtain ⟨n', r', hr', hfinal, hexecuted, haccesses⟩ := seqRun_of_finished hs hm
    obtain ⟨hempty, -⟩ := finished_run_drained hm
    cases seqRun_unique hr (harch ▸ hr')
    rw [architectural_of_latchesEmpty hempty] at hfinal
    rw [inFlight_of_latchesEmpty hlatches, List.nil_append] at hexecuted
    rw [pendingAccesses_of_latchesEmpty hlatches, List.nil_append] at haccesses
    have hretired := (retired_of_finished hm hhistory).trans hexecuted
    rw [← hfinal]
    exact ⟨rfl, rfl, rfl, hretired, (length_genuine_of_finished hm hhistory).trans (congrArg List.length hretired), haccesses⟩

/-- Settles O45: each unit finds in the state what the order-free tick gives it, and the masking pass changes nothing. -/
theorem callOrderAgreesWithOrderFreeTick : Obligations.CallOrderAgreesWithOrderFreeTick := tickOrdered_eq

/-- Settles O46: EX and MEM record their inputs, and with EX empty IF and ID do too. -/
theorem terminationTestReadsDrainedStages : Obligations.TerminationTestReadsDrainedStages := fun _ _ h =>
  ⟨(busy_eq_false h).trans (and_congr_left' ⟨le_of_fetch_none, fetch_of_le⟩), busy_of_bubble h⟩

/-- Settles O47: the last tick starts drained, so only MEM/WB was left to empty. -/
theorem finishedRunIsDrained : Obligations.FinishedRunIsDrained := by
  intro fuel s t h
  obtain ⟨hlatches, hfetch, himem⟩ := finished_run_drained h
  exact ⟨hlatches, le_of_fetch_none hfetch, himem⟩

/-- Settles O49: the hosted loop makes the ticks of the plain one while the hook lets it go on. -/
theorem pausingOnlyTruncatesARun : Obligations.PausingOnlyTruncatesARun := by
  refine ⟨runHosted_silent, fun _ _ s hquit hlen => runHosted_of_enough_decisions hquit hlen s,
    fun _ ds s u _ hquit hlen hrun ht => ?_, fun _ _ _ h => by rw [h]; rfl⟩
  obtain ⟨n, rfl⟩ := Nat.exists_eq_add_of_lt hlen
  have hlast : ∀ rest, runHosted false (ds.length + n + 1) (ds ++ rest) s = runHosted false (n + 1) rest u :=
    fun _ => runHosted_append (n := n + 1) hquit hrun
  refine ⟨?waiting, fun rest => ?quit⟩
  case waiting =>
    have hwait := hlast []
    rwa [List.append_nil, runHosted_succ_of_next ht] at hwait
  case quit =>
    rw [hlast, runHosted_succ_of_next ht]
    exact ⟨rfl, rfl⟩

/-- Settles O7: the cases of a step. -/
theorem stepRunsTheDecodedInstruction : Obligations.StepRunsTheDecodedInstruction := fun _ =>
  ⟨fun _ _ => step_of_decodes, fun _ => step_of_reserved, fun hle => step_of_fetch_none (fetch_of_le hle)⟩

/-- Settles O8: the placed word is fetched, and only its slot of instruction memory is written. -/
theorem placedWordRunsNext : Obligations.PlacedWordRunsNext := by
  intro s w i hi
  simp only [withFetchWord_toNat]
  exact ⟨step_of_decodes (fetch_placeFetchWord s w) hi, fun _ => placeWord_getElem?_ne w, rfl⟩

/-- Settles O42: the record of each stage with an input and without one. -/
theorem activityRecordsOfATick : Obligations.ActivityRecordsOfATick := by
  intro s t h
  obtain ⟨hWB, hMEM, hEX, hID, -⟩ := emptyInputsDoNothing s t h
  refine ⟨tickRecord s, history_of_tick h, cycles_of_tick h, fun _ => atWB_of_memWb, fun _ => atMEM_of_exMem,
    fun _ => atEX_of_idEx, fun _ => atID_of_ifId, fun _ => atIF_of_fetch, fun hm => (hWB hm).2, fun he => (hMEM he).2.2,
    fun hd => (hEX hd).2.2, fun hf => (hID hf).2, ?_⟩
  rintro (hflush | hstall | hle)
  · exact (records_of_bubble (.inr hflush)).2
  · exact (records_of_bubble (.inl hstall)).2
  · exact atIF_of_fetch_none (fetch_of_le hle)

/-- Settles O44: a Word has no bits beyond the mask. -/
theorem remaskingChangesNothing : Obligations.RemaskingChangesNothing := remask_eq

/-- Settles O48: the launch of no program starts drained. -/
theorem emptyProgramRunsOneTick : Obligations.EmptyProgramRunsOneTick := by
  intro sizeLog2 regInit dmemInit fuel s
  have ht : tick s = .next (tickNext s .empty) := rfl
  have hbusy : (tickNext s .empty).busy = false := (busy_eq_false ht).mpr ⟨rfl, rfl, rfl, rfl⟩
  refine ⟨_, (run_succ_of_next ht).trans (if_neg (Bool.not_eq_true _ ▸ hbusy)), rfl, rfl, rfl, rfl⟩

end

section
/-! PROOFS. Exceptions (60_exceptions.md): what an instruction keeps, the one fault of a tick, and runs of valid programs; then the
obligations of that family. -/

namespace Sys2Proof.Machine

/-! Instructions (R320). -/

/-- No instruction touches instruction memory, a latch or a record (R73, R303; log 1). -/
theorem exec_keepsPipeline {i : Instr} {s t : State} (h : exec i s = .next t) : KeepsPipeline s t := by
  obtain ⟨_, _, -, he⟩ | ⟨_, _, _, -, he⟩ | ⟨_, he⟩ := exec_cases i s <;> cases he.symm.trans h <;>
    exact ⟨rfl, rfl, rfl, rfl, rfl, rfl, rfl⟩

/-- A register that an instruction changes is its destination, and not register 0 (R23, R213). -/
theorem destReg_of_readReg_ne {i : Instr} {s t : State} {r : RegIx} (h : exec i s = .next t) (hne : t.readReg r ≠ s.readReg r) :
    (controlOf i).regWrite = true ∧ r = destReg i ∧ r ≠ 0 := by
  obtain ⟨v, _, hwrite, he⟩ | ⟨_, _, _, -, he⟩ | ⟨_, he⟩ := exec_cases i s <;> cases he.symm.trans h
  · rw [readReg_setPc, readReg_writeReg] at hne
    obtain ⟨hr, hzero⟩ : r = destReg i ∧ destReg i ≠ 0 := of_not_not fun hother => hne (if_neg hother)
    exact ⟨hwrite, hr, hr ▸ hzero⟩
  · exact absurd rfl hne
  · exact absurd rfl hne

/-! Reserved words (R323, 30_encoding.md R97). -/

theorem decodeWord_eq_none {w : Word} : decodeWord w = none ↔ validWord w = false := by
  rw [← decodeWord_isSome, Option.isSome_eq_false_iff, Option.isNone_iff_eq_none]

/-- A reserved word in IF/ID faults whatever the wires of the tick are (R323). -/
theorem tick_of_reserved {s : State} {f : IfId} (hf : s.ifId = .occupied f) (hw : decodeWord f.instr = none) :
    tick s = .fault (.reservedInstruction f.pc f.instr) := by
  simp [tick, idStage, hf, hw]

theorem tick_fault_iff {s : State} {reason : Fault} :
    tick s = .fault reason ↔
      ∃ f, s.ifId = .occupied f ∧ validWord f.instr = false ∧ reason = .reservedInstruction f.pc f.instr := by
  simp only [← decodeWord_eq_none]
  constructor
  · exact tick_fault
  · rintro ⟨f, hf, hw, rfl⟩
    exact tick_of_reserved hf hw

/-- The text of a valid word encodes to it (R110), and the text `unknown` does not encode, for no mnemonic is spelled so. -/
theorem decodeText_eq_unknownText {w : Word} : decodeText w = unknownText ↔ validWord w = false := by
  constructor
  · intro htext
    refine Bool.eq_false_iff.mpr fun hvalid => ?_
    have hok : encodeLine unknownText = .ok w := htext ▸ encodeLine_decodeText hvalid
    have herror : encodeLine unknownText = .error .InvalidInstruction := rfl
    cases herror.symm.trans hok
  · intro hw
    rw [decodeText, decodeWord_eq_none.mpr hw]

/-! Runs of programs of valid words (R320, R323). -/

/-- From a consistent IF/ID every tick answers a next state, whose IF/ID is consistent again. -/
theorem run_finished_or_running {s : State} (hif : s.IfIdInv) (hvalid : ∀ w ∈ s.imem, validWord w = true) (fuel : Nat) :
    (∃ t, run fuel s = .finished t) ∨ ∃ t, run fuel s = .running t := by
  induction fuel generalizing s with
  | zero => exact .inr ⟨s, rfl⟩
  | succ fuel ih =>
    obtain ⟨t, ht⟩ := tick_answers_of_valid hvalid hif
    obtain ⟨candidate, -, rfl⟩ := tick_next ht
    rw [run_succ_of_next ht]
    cases (tickNext s candidate).busy with
    | false => exact .inl ⟨_, rfl⟩
    | true => exact ih hif.tickNext hvalid

/-- A run from source text that does not report a load error is the run of a launch with the loaded words (R298). -/
theorem runProgram_ok {lines : List (List Char)} {sizeLog2 : Fin 33} {regInit : RegFile} {dmemInit : List Word} {fuel : Nat}
    {e : RunEnd} (h : runProgram lines sizeLog2 regInit dmemInit fuel = .ok e) :
    ∃ imem, loadProgram lines = .ok imem ∧ run fuel (State.launch imem sizeLog2 regInit dmemInit) = e := by
  unfold runProgram at h
  split at h
  case h_1 => cases h
  case h_2 imem hload => exact ⟨imem, hload, Except.ok.inj h⟩

end Sys2Proof.Machine

open Sys2Proof Sys2Proof.Machine

/-! The obligations of 60_exceptions.md. -/

/-- Settles O59: the loader gives valid words only, and a launch starts with IF/ID empty. -/
theorem loadedProgramsNeverFault : Obligations.LoadedProgramsNeverFault := by
  intro lines sizeLog2 regInit dmemInit fuel e h
  obtain ⟨imem, hload, rfl⟩ := runProgram_ok h
  obtain ⟨hif, -⟩ := (launch_latchesEmpty imem sizeLog2 regInit dmemInit).pipeInv
  exact run_finished_or_running hif (validWord_of_loadFrom hload) fuel

/-- Settles O17: an instruction writes at most its destination register, beside data memory and the pc. -/
theorem everyInstructionCompletesWithinItsDestination : Obligations.EveryInstructionCompletesWithinItsDestination := by
  intro i s
  obtain ⟨t, ht⟩ := exec_answers i s
  exact ⟨t, ht, exec_keepsPipeline ht, fun _ => destReg_of_readReg_ne ht⟩

/-- Settles O43: the fault of ID, the display text of a word, and the words of a load. -/
theorem reservedWordInDecoderFaults : Obligations.ReservedWordInDecoderFaults := fun _ =>
  ⟨fun _ => tick_fault_iff, fun _ => decodeText_eq_unknownText.symm, fun _ _ => validWord_of_loadFrom⟩

end

section
/-! PROOFS. Timing (70_reset_and_hazards.md): the instructions that pass EX in a run are those that retire, how far the next one is
from EX before and after a tick, and the ticks of a finished run; then the obligation of that family. -/

namespace Sys2Proof.Machine

/-! Retired instructions and ticks of a finished run (R331, R295). -/

section
variable {s t : State} {m : Nat}

theorem cycles_of_finished (h : run m s = .finished t) : t.cycles = s.cycles + (runStates m s).length := by
  refine finished_induction (motive := fun m s => t.cycles = s.cycles + (runStates m s).length) ?last ?more m s h
  case last =>
    intro m s ht hbusy
    simp [runStates_succ_of_next ht, hbusy, cycles_of_tick ht]
  case more =>
    intro m s u hu hbusy ih
    simp only [runStates_succ_of_next hu, hbusy, if_true, List.length_cons, ih, cycles_of_tick hu]
    omega

theorem memEntry_of_exMem_empty (he : s.exMem = .empty) : s.memEntry = none := by
  rw [State.memEntry, he]
  rfl

/-- The instructions that pass WB in a run are those in MEM/WB and EX/MEM at its start and those that pass EX (R354). -/
theorem wbEntries_of_finished (h : run m s = .finished t) :
    (runStates m s).filterMap State.wbEntry =
      s.wbEntry.toList ++ s.memEntry.toList ++ (runStates m s).filterMap State.exEntry := by
  refine finished_induction (motive := fun m s => (runStates m s).filterMap State.wbEntry =
    s.wbEntry.toList ++ s.memEntry.toList ++ (runStates m s).filterMap State.exEntry) ?last ?more m s h
  case last =>
    intro m s ht hbusy
    obtain ⟨-, -, hd, he⟩ := (busy_eq_false ht).mp hbusy
    simp [runStates_succ_of_next ht, hbusy, filterMap_cons_toList, memEntry_of_exMem_empty he, exEntry_of_bubble hd]
  case more =>
    intro m s u hu hbusy ih
    simp [runStates_succ_of_next hu, hbusy, filterMap_cons_toList, ih, wbEntry_of_tick hu, memEntry_of_tick hu]

/-! The instruction in EX and the slots lost behind it (R355). -/

theorem exTaken_of_idEx_empty (hd : s.idEx = .empty) : exTaken s = none := by
  rw [exTaken, hd]

theorem exTaken_of_idEx {d : IdEx} (hd : s.idEx = .occupied d) : exTaken s = some (wires s).flush := by
  rw [exTaken, hd]

theorem exTaken_isSome (s : State) : (exTaken s).isSome = s.exEntry.isSome := by
  cases hd : s.idEx <;> simp [exTaken, State.exEntry, Latch.entry, hd]

/-- As many instructions retire in a run from empty latches as pass EX. -/
theorem length_retired_of_finished (hs : s.LatchesEmpty) (hhistory : s.history = []) (h : run m s = .finished t) :
    (retired t.history).length = ((runStates m s).filterMap exTaken).length := by
  obtain ⟨-, -, he, hm⟩ := hs
  have hwb : s.wbEntry = none := by rw [State.wbEntry, hm]; rfl
  rw [retired_of_finished h hhistory, wbEntries_of_finished h, memEntry_of_exMem_empty he, hwb]
  simp [List.length_filterMap_eq_countP, exTaken_isSome]

/-- The fetch slots lost behind the instruction in EX: one in a stall, two in a flush (R355). -/
def State.lostSlots (s : State) : Nat := (if (wires s).stall then 1 else 0) + 2 * (if (wires s).flush then 1 else 0)

theorem lostSlots_of_stall (h : (wires s).stall = true) : s.lostSlots = 1 := by
  simp [State.lostSlots, h, (stall_iff.mp h).1]

theorem stall_of_flush (h : (wires s).flush = true) : (wires s).stall = false :=
  Bool.eq_false_iff.mpr fun hstall => by cases h.symm.trans (stall_iff.mp hstall).1

theorem lostSlots_of_flush (h : (wires s).flush = true) : s.lostSlots = 2 := by
  simp [State.lostSlots, h, stall_of_flush h]

/-! How far the next instruction is from EX. -/

/-- The number of ticks until the next instruction is in EX; `none` when none is left. -/
def State.ticksToEx (s : State) : Option Nat :=
  match s.idEx, s.ifId, s.fetch with
  | .occupied _, _, _ => some 0
  | .empty, .occupied _, _ => some 1
  | .empty, .empty, some _ => some 2
  | .empty, .empty, none => none

theorem ticksToEx_of_idEx {d : IdEx} (hd : s.idEx = .occupied d) : s.ticksToEx = some 0 := by
  simp [State.ticksToEx, hd]

theorem ticksToEx_of_ifId {f : IfId} (hd : s.idEx = .empty) (hf : s.ifId = .occupied f) : s.ticksToEx = some 1 := by
  simp [State.ticksToEx, hd, hf]

theorem ticksToEx_of_fetch (hd : s.idEx = .empty) (hf : s.ifId = .empty) : s.ticksToEx = s.fetch.map fun _ => 2 := by
  cases hw : s.fetch <;> simp [State.ticksToEx, hd, hf, hw]

theorem ticksToEx_eq_none (h : s.ticksToEx = none) : s.fetch = none ∧ s.ifId = .empty ∧ s.idEx = .empty := by
  cases hd : s.idEx <;> cases hf : s.ifId <;> cases hw : s.fetch <;> simp [State.ticksToEx, hd, hf, hw] at h ⊢

/-- The slot behind an instruction in ID/EX is empty only past the end. -/
def State.BehindExInv (s : State) : Prop := ∀ d, s.idEx = .occupied d → s.ifId = .empty → s.fetch = none

theorem behindExInv_of_idEx_empty (hd : s.idEx = .empty) : s.BehindExInv := by
  intro d hd'
  cases hd.symm.trans hd'

/-- Past the end, IF holds the pc (R211). -/
theorem fetch_of_fetch_none (h : tick s = .next t) (hredirect : (wires s).redirect = none) (hw : s.fetch = none) :
    t.fetch = none := by
  have hif := ifStage_of_tick h
  rw [hredirect, hw] at hif
  have hpc : t.pc = s.pc := by cases hstall : (wires s).stall <;> rw [hstall] at hif <;> exact (Prod.mk.inj hif).2
  rw [State.fetch, hpc, imem_of_tick h]
  exact hw

theorem behindExInv_of_tick (h : tick s = .next t) : t.BehindExInv := by
  intro d hd hf
  obtain ⟨candidate, hid, ht⟩ := tick_next h
  obtain ⟨hredirect, huse, -⟩ := idEx_after_tick hid (ht ▸ hd)
  refine fetch_of_fetch_none h hredirect (Option.eq_none_iff_forall_ne_some.mpr fun w hw => ?_)
  have hflush : (wires s).flush = false := by rw [wires_flush, hredirect]; rfl
  cases hf.symm.trans (ifId_of_fetch h hflush ((wires_stall hredirect).trans huse) hw)

/-- With EX idle, the next instruction comes one tick nearer to it. -/
theorem ticksToEx_of_bubble (h : tick s = .next t) (hd : s.idEx = .empty) : s.ticksToEx = t.ticksToEx.map (· + 1) := by
  obtain ⟨hredirect, hflush, hstall⟩ := wires_of_idEx_empty s hd
  cases hf : s.ifId with
  | occupied f =>
    obtain ⟨i, hi⟩ := decodes_of_tick h hf
    rw [ticksToEx_of_ifId hd hf, ticksToEx_of_idEx (idEx_of_ifId h hf hi hflush hstall)]
    rfl
  | empty =>
    have hd' := idEx_of_ifId_empty h hf
    rw [ticksToEx_of_fetch hd hf]
    cases hw : s.fetch with
    | some w =>
      rw [ticksToEx_of_ifId hd' (ifId_of_fetch h hflush hstall hw)]
      rfl
    | none =>
      rw [ticksToEx_of_fetch hd' (ifId_of_fetch_none h hw hstall), fetch_of_fetch_none h hredirect hw]
      rfl

/-- Behind an instruction in EX the next one follows after the slots lost, if one is left (R355). -/
theorem ticksToEx_of_ex {d : IdEx} (hs : s.BehindExInv) (h : tick s = .next t) (hd : s.idEx = .occupied d) :
    t.ticksToEx = some s.lostSlots ∨ t.ticksToEx = none ∧ (wires s).stall = false := by
  cases hflush : (wires s).flush with
  | true =>
    have hstall := stall_of_flush hflush
    obtain ⟨target, hredirect⟩ := Option.isSome_iff_exists.mp hflush
    obtain ⟨candidate, -, rfl⟩ := tick_next h
    obtain ⟨hd', hf', -⟩ := tickNext_of_redirect s candidate hredirect
    rw [ticksToEx_of_fetch hd' hf', lostSlots_of_flush hflush]
    cases (tickNext s candidate).fetch with
    | some w => exact .inl rfl
    | none => exact .inr ⟨rfl, hstall⟩
  | false =>
    cases hstall : (wires s).stall with
    | true =>
      obtain ⟨hd', hf', -⟩ := held_of_stall h hstall
      obtain ⟨-, f, -, hf, -⟩ := loadUse_iff.mp (stall_iff.mp hstall).2
      rw [ticksToEx_of_ifId hd' (hf'.trans hf), lostSlots_of_stall hstall]
      exact .inl rfl
    | false =>
      cases hf : s.ifId with
      | occupied f =>
        obtain ⟨i, hi⟩ := decodes_of_tick h hf
        rw [ticksToEx_of_idEx (idEx_of_ifId h hf hi hflush hstall), State.lostSlots, hflush, hstall]
        exact .inl rfl
      | empty =>
        have hw := hs d hd hf
        rw [ticksToEx_of_fetch (idEx_of_ifId_empty h hf) (ifId_of_fetch_none h hw hstall),
          fetch_of_fetch_none h (redirect_of_flush_false hflush) hw]
        exact .inr ⟨rfl, rfl⟩

/-! The ticks of a finished run (R356). -/

/-- Of each instruction that passes EX in the ticks `states`, whether it is a taken transfer. -/
def takenInEx (states : List State) : List Bool := states.filterMap exTaken

/-- The ticks of `states` that instructions in EX account for: one each, and the slots lost behind them. -/
def exTicks (states : List State) : Nat :=
  (takenInEx states).length + states.countP (fun u => (wires u).stall) + 2 * states.countP fun u => (wires u).flush

/-- The ticks of MEM and WB of the last instruction. Those of a taken transfer are the two slots lost behind it. -/
def drainTicks (taken : List Bool) : Nat := if taken.getLast? == some true then 0 else 2

/-- The length of the run `states` from `s`: what the instructions in EX account for, the way of the first one to EX, and the ticks
of the last one after EX. When none is left for EX, what is in EX/MEM has MEM before the last tick. -/
def TimedRun (s : State) (states : List State) : Prop :=
  (∃ n, s.ticksToEx = some n ∧ takenInEx states ≠ [] ∧ states.length = exTicks states + n + drainTicks (takenInEx states)) ∨
    (s.ticksToEx = none ∧ takenInEx states = [] ∧ states.length = exTicks states + s.memEntry.toList.length + 1)

section
variable {states : List State}

theorem takenInEx_cons_of_bubble (hd : s.idEx = .empty) : takenInEx (s :: states) = takenInEx states :=
  List.filterMap_cons_none (exTaken_of_idEx_empty hd)

theorem takenInEx_cons_of_ex {d : IdEx} (hd : s.idEx = .occupied d) :
    takenInEx (s :: states) = (wires s).flush :: takenInEx states :=
  List.filterMap_cons_some (exTaken_of_idEx hd)

theorem exTicks_cons_of_bubble (hd : s.idEx = .empty) : exTicks (s :: states) = exTicks states := by
  obtain ⟨-, hflush, hstall⟩ := wires_of_idEx_empty s hd
  simp [exTicks, takenInEx_cons_of_bubble hd, hflush, hstall]

theorem exTicks_cons_of_ex {d : IdEx} (hd : s.idEx = .occupied d) :
    exTicks (s :: states) = exTicks states + 1 + s.lostSlots := by
  simp only [exTicks, takenInEx_cons_of_ex hd, List.length_cons, List.countP_cons, State.lostSlots]
  omega

/-- The last instruction stays the last with another one in front. -/
theorem drainTicks_cons (b : Bool) {taken : List Bool} (h : taken ≠ []) : drainTicks (b :: taken) = drainTicks taken := by
  rw [drainTicks, List.getLast?_cons_of_ne_nil h, drainTicks]

/-- The slots lost behind the last instruction and its ticks after EX are two together. -/
theorem lostSlots_add_drainTicks (hstall : (wires s).stall = false) : s.lostSlots + drainTicks [(wires s).flush] = 2 := by
  cases hflush : (wires s).flush <;> simp [State.lostSlots, drainTicks, hflush, hstall]

theorem TimedRun.before_tick_of_bubble (ht : TimedRun t states) (h : tick s = .next t) (hd : s.idEx = .empty)
    (hbusy : t.busy = true) : TimedRun s (s :: states) := by
  rw [TimedRun, takenInEx_cons_of_bubble hd, exTicks_cons_of_bubble hd, List.length_cons, ticksToEx_of_bubble h hd]
  obtain ⟨n, hn, htaken, hlength⟩ | ⟨hn, htaken, hlength⟩ := ht
  · refine .inl ⟨n + 1, by rw [hn]; rfl, htaken, by omega⟩
  · have hlast := ticksToEx_of_bubble h hd
    rw [hn] at hlast
    obtain ⟨hw, hf, -⟩ := ticksToEx_eq_none hlast
    have hmem : s.memEntry.toList.length = 1 := by
      cases he : s.exMem with
      | empty => cases hbusy.symm.trans ((busy_eq_false h).mpr ⟨hw, hf, hd, he⟩)
      | occupied e => rw [State.memEntry, he]; rfl
    rw [memEntry_of_tick h, exEntry_of_bubble hd] at hlength
    exact .inr ⟨by rw [hn]; rfl, htaken, by rw [hlength, hmem]; rfl⟩

theorem TimedRun.before_tick_of_ex {d : IdEx} (ht : TimedRun t states) (hs : s.BehindExInv) (h : tick s = .next t)
    (hd : s.idEx = .occupied d) : TimedRun s (s :: states) := by
  refine .inl ⟨0, ticksToEx_of_idEx hd, ?_⟩
  rw [takenInEx_cons_of_ex hd, exTicks_cons_of_ex hd, List.length_cons]
  refine ⟨List.cons_ne_nil _ _, ?_⟩
  obtain ⟨n, hn, htaken, hlength⟩ | ⟨hn, htaken, hlength⟩ := ht
  · obtain hnext | ⟨hnext, -⟩ := ticksToEx_of_ex hs h hd <;> cases hn.symm.trans hnext
    rw [drainTicks_cons _ htaken]
    omega
  · obtain hnext | ⟨-, hstall⟩ := ticksToEx_of_ex hs h hd
    · cases hn.symm.trans hnext
    · have hmem : t.memEntry.toList.length = 1 := by rw [memEntry_of_tick h, State.exEntry, hd]; rfl
      have hdrain := lostSlots_add_drainTicks hstall
      rw [htaken]
      omega

theorem timedRun_of_drained (hs : s.Drained) : TimedRun s [s] := by
  obtain ⟨hw, hf, hd, he⟩ := hs
  refine .inr ⟨by rw [ticksToEx_of_fetch hd hf, hw]; rfl, takenInEx_cons_of_bubble hd, ?_⟩
  rw [exTicks_cons_of_bubble hd, memEntry_of_exMem_empty he]
  rfl

end

theorem timedRun_of_finished (hs : s.BehindExInv) (h : run m s = .finished t) : TimedRun s (runStates m s) := by
  refine finished_induction (motive := fun m s => s.BehindExInv → TimedRun s (runStates m s)) ?last ?more m s h hs
  case last =>
    intro m s ht hbusy _
    rw [runStates_succ_of_next ht, hbusy]
    exact timedRun_of_drained ((busy_eq_false ht).mp hbusy)
  case more =>
    intro m s u hu hbusy ih hs
    rw [runStates_succ_of_next hu, hbusy]
    have hrun := ih (behindExInv_of_tick hu)
    cases hd : s.idEx with
    | empty => exact hrun.before_tick_of_bubble hu hd hbusy
    | occupied d => exact hrun.before_tick_of_ex hs hu hd

/-- Without an instruction in EX there is no stall and no flush. -/
theorem exTicks_of_takenInEx_nil {states : List State} (h : takenInEx states = []) : exTicks states = 0 := by
  induction states with
  | nil => rfl
  | cons u rest ih =>
    cases hd : u.idEx with
    | empty =>
      rw [exTicks_cons_of_bubble hd]
      exact ih ((takenInEx_cons_of_bubble hd).symm.trans h)
    | occupied d => cases (takenInEx_cons_of_ex hd).symm.trans h

end

end Sys2Proof.Machine

open Sys2Proof Sys2Proof.Machine

/-! The obligation of 70_reset_and_hazards.md. -/

/-- Settles O53: from empty latches the first instruction takes two ticks to EX; each one takes a tick in EX and the slots lost
behind it; and the last one retires two ticks after EX, which behind a taken transfer are its lost slots. -/
theorem cycleCountOfATerminatingRun : Obligations.CycleCountOfATerminatingRun := by
  intro fuel s t hlaunched hrun R S K
  obtain ⟨hlatches, hhistory, hcycles, -⟩ := hlaunched
  have ⟨hf, hd, he, _⟩ := hlatches
  have hR : R = (takenInEx (runStates fuel s)).length := length_retired_of_finished hlatches hhistory hrun
  have hticks : exTicks (runStates fuel s) = R + S + 2 * K := by rw [hR]; rfl
  rw [cycles_of_finished hrun, hcycles, Nat.zero_add]
  obtain ⟨n, hn, htaken, hlength⟩ | ⟨-, htaken, hlength⟩ := timedRun_of_finished (behindExInv_of_idEx_empty hd) hrun
  · have hne : R ≠ 0 := hR ▸ List.length_eq_zero_iff.not.mpr htaken
    have hway : n = 2 := by
      rw [ticksToEx_of_fetch hd hf] at hn
      obtain ⟨w, -, h2⟩ := Option.map_eq_some_iff.mp hn
      exact h2.symm
    have hdrain : drainTicks (takenInEx (runStates fuel s)) = if lastIsTaken fuel s then 0 else 2 := rfl
    rw [if_neg hne, hlength, hticks, hway, hdrain]
    split <;> rfl
  · have hzero : R = 0 := hR.trans (congrArg List.length htaken)
    rw [if_pos hzero, hlength, exTicks_of_takenInEx_nil htaken, memEntry_of_exMem_empty he]
    rfl

end
